-- ==== Sys2Proof/Word.lean ====
section
/-!
DEFINITION. The bit-vector types of the CHIP-8 core: the byte that memory and the general registers hold,
the 16-bit word of the program counter, the index register, the stack entries and every instruction, and the
number of a general register (spec/00_scope.md R5, R6; spec/10_state.md R10).
-/

namespace Sys2Proof

/-- A byte: a memory cell, a general register, a timer (R10, R18, R19, R40). -/
abbrev Byte := BitVec 8

/-- A 16-bit word: PC, I, a stack entry, an instruction (R13, R16, R21, R60). -/
abbrev Word := BitVec 16

/-- A 4-bit field of an instruction or byte ("Nibble", R8). -/
abbrev Nibble := BitVec 4

/-- The 12-bit address `nnn` (R62). -/
abbrev Addr12 := BitVec 12

/-- The number of a general register, 0..15, or of a key (R10, R23). -/
abbrev RegIx := Fin 16

end Sys2Proof
end

