-- ==== Sys2Proof/Syntax.lean ====
section
/-!
DEFINITION. The instructions: one constructor per row of spec/opcode_table.json, in the table's order (R65), each with the
operand fields of its format (R61, R62). The register selectors are register numbers; immediates keep their width.
-/

namespace Sys2Proof

/-- The 35 instructions of the base CHIP-8 set (R65). -/
inductive Instr where
  /-- `SYS nnn`, word 0nnn other than 00E0 and 00EE (R101). -/
  | sys (nnn : Addr12)
  /-- `CLS`, word 00E0 (R170). -/
  | cls
  /-- `RET`, word 00EE (R102). -/
  | ret
  /-- `JP nnn`, word 1nnn (R103). -/
  | jp (nnn : Addr12)
  /-- `CALL nnn`, word 2nnn (R104). -/
  | call (nnn : Addr12)
  /-- `SE Vx,nn`, word 3xnn (R105). -/
  | seVxNn (x : RegIx) (nn : Byte)
  /-- `SNE Vx,nn`, word 4xnn (R106). -/
  | sneVxNn (x : RegIx) (nn : Byte)
  /-- `SE Vx,Vy`, word 5xy0 (R107). -/
  | seVxVy (x y : RegIx)
  /-- `LD Vx,nn`, word 6xnn (R120). -/
  | ldVxNn (x : RegIx) (nn : Byte)
  /-- `ADD Vx,nn`, word 7xnn (R121). -/
  | addVxNn (x : RegIx) (nn : Byte)
  /-- `LD Vx,Vy`, word 8xy0 (R122). -/
  | ldVxVy (x y : RegIx)
  /-- `OR Vx,Vy`, word 8xy1 (R123). -/
  | orVxVy (x y : RegIx)
  /-- `AND Vx,Vy`, word 8xy2 (R124). -/
  | andVxVy (x y : RegIx)
  /-- `XOR Vx,Vy`, word 8xy3 (R125). -/
  | xorVxVy (x y : RegIx)
  /-- `ADD Vx,Vy`, word 8xy4 (R126). -/
  | addVxVy (x y : RegIx)
  /-- `SUB Vx,Vy`, word 8xy5 (R127). -/
  | subVxVy (x y : RegIx)
  /-- `SHR Vx`, word 8xy6; y is decoded and not used (R68, R128). -/
  | shrVx (x y : RegIx)
  /-- `SUBN Vx,Vy`, word 8xy7 (R129). -/
  | subnVxVy (x y : RegIx)
  /-- `SHL Vx`, word 8xyE; y is decoded and not used (R68, R130). -/
  | shlVx (x y : RegIx)
  /-- `SNE Vx,Vy`, word 9xy0 (R108). -/
  | sneVxVy (x y : RegIx)
  /-- `LD I,nnn`, word Annn (R150). -/
  | ldINnn (nnn : Addr12)
  /-- `JP V0,nnn`, word Bnnn (R109). -/
  | jpV0Nnn (nnn : Addr12)
  /-- `RND Vx,nn`, word Cxnn (R131). -/
  | rndVxNn (x : RegIx) (nn : Byte)
  /-- `DRW Vx,Vy,n`, word Dxyn; n is the height in rows, 0..15 (R171). -/
  | drwVxVyN (x y : RegIx) (n : Nibble)
  /-- `SKP Vx`, word Ex9E (R184). -/
  | skpVx (x : RegIx)
  /-- `SKNP Vx`, word ExA1 (R185). -/
  | sknpVx (x : RegIx)
  /-- `LD Vx,DT`, word Fx07 (R180). -/
  | ldVxDt (x : RegIx)
  /-- `LD Vx,K`, word Fx0A, wait for key (R183). -/
  | ldVxK (x : RegIx)
  /-- `LD DT,Vx`, word Fx15 (R181). -/
  | ldDtVx (x : RegIx)
  /-- `LD ST,Vx`, word Fx18 (R182). -/
  | ldStVx (x : RegIx)
  /-- `ADD I,Vx`, word Fx1E (R151). -/
  | addIVx (x : RegIx)
  /-- `LD F,Vx`, word Fx29 (R152). -/
  | ldFVx (x : RegIx)
  /-- `LD B,Vx`, word Fx33 (R153). -/
  | ldBVx (x : RegIx)
  /-- `LD [I],Vx`, word Fx55 (R154). -/
  | ldMemVx (x : RegIx)
  /-- `LD Vx,[I]`, word Fx65 (R155). -/
  | ldVxMem (x : RegIx)
deriving DecidableEq, Repr

/-- The mnemonic of each instruction as spec/opcode_table.json spells it. -/
def Instr.mnemonic : Instr → String
  | .sys _ => "SYS_nnn"
  | .cls => "CLS"
  | .ret => "RET"
  | .jp _ => "JP_nnn"
  | .call _ => "CALL_nnn"
  | .seVxNn _ _ => "SE_Vx_nn"
  | .sneVxNn _ _ => "SNE_Vx_nn"
  | .seVxVy _ _ => "SE_Vx_Vy"
  | .ldVxNn _ _ => "LD_Vx_nn"
  | .addVxNn _ _ => "ADD_Vx_nn"
  | .ldVxVy _ _ => "LD_Vx_Vy"
  | .orVxVy _ _ => "OR_Vx_Vy"
  | .andVxVy _ _ => "AND_Vx_Vy"
  | .xorVxVy _ _ => "XOR_Vx_Vy"
  | .addVxVy _ _ => "ADD_Vx_Vy"
  | .subVxVy _ _ => "SUB_Vx_Vy"
  | .shrVx _ _ => "SHR_Vx"
  | .subnVxVy _ _ => "SUBN_Vx_Vy"
  | .shlVx _ _ => "SHL_Vx"
  | .sneVxVy _ _ => "SNE_Vx_Vy"
  | .ldINnn _ => "LD_I_nnn"
  | .jpV0Nnn _ => "JP_V0_nnn"
  | .rndVxNn _ _ => "RND_Vx_nn"
  | .drwVxVyN _ _ _ => "DRW_Vx_Vy_n"
  | .skpVx _ => "SKP_Vx"
  | .sknpVx _ => "SKNP_Vx"
  | .ldVxDt _ => "LD_Vx_DT"
  | .ldVxK _ => "LD_Vx_K"
  | .ldDtVx _ => "LD_DT_Vx"
  | .ldStVx _ => "LD_ST_Vx"
  | .addIVx _ => "ADD_I_Vx"
  | .ldFVx _ => "LD_F_Vx"
  | .ldBVx _ => "LD_B_Vx"
  | .ldMemVx _ => "LD__I__Vx"
  | .ldVxMem _ => "LD_Vx__I"

end Sys2Proof
end

