-- ==== Sys2Proof/Decode.lean ====
section
/-!
DEFINITION. The decoder, total on every byte sequence (R64), the encoder written from the same layouts (R61, R65), the
opcode map as the table of masks and patterns the spec gives (R65), and the host's numbering of a table word.
-/

namespace Sys2Proof

/-! ### Bytes and fields of a word (R43, R62) -/

/-- The byte at the lower address is `op[15:8]` (R43). -/
def wordOfBytes (hi lo : Byte) : Word := hi ++ lo

/-- `op[15:8]`, stored first (R43). -/
def hiByte (op : Word) : Byte := op.extractLsb' 8 8

/-- `op[7:0]`, stored second (R43). -/
def loByte (op : Word) : Byte := op.extractLsb' 0 8

/-- A 4-bit selector taken directly as the register index 0..15 (R63). -/
def regOfNibble (b : Nibble) : RegIx := ⟨b.toNat, b.isLt⟩

/-- The 4-bit selector of a register. -/
def nibbleOfReg (r : RegIx) : Nibble := BitVec.ofNat 4 r.val

/-- The primary opcode field `op[15:12]` (R61). -/
def fieldP (op : Word) : Nibble := op.extractLsb' 12 4

/-- `x = op[11:8]` (R62). -/
def fieldX (op : Word) : RegIx := regOfNibble (op.extractLsb' 8 4)

/-- `y = op[7:4]` (R62). -/
def fieldY (op : Word) : RegIx := regOfNibble (op.extractLsb' 4 4)

/-- `n = op[3:0]` (R62). -/
def fieldN (op : Word) : Nibble := op.extractLsb' 0 4

/-- `nn = op[7:0]` (R62). -/
def fieldNN (op : Word) : Byte := op.extractLsb' 0 8

/-- `nnn = op[11:0]` (R62). -/
def fieldNNN (op : Word) : Addr12 := op.extractLsb' 0 12

/-! ### Decoding (R64) -/

/-- Why a byte sequence is no instruction: the five classes of illegal words of R66, and fewer than two bytes. -/
inductive Reject where
  /-- `5xyn` with n other than 0 (R66, R67). -/
  | illegal5
  /-- `8xyn` with n in 8, 9, A, B, C, D, F (R66). -/
  | illegal8
  /-- `9xyn` with n other than 0 (R66, R67). -/
  | illegal9
  /-- `Exnn` with nn neither 9E nor A1 (R66). -/
  | illegalE
  /-- `Fxnn` with nn none of 07, 0A, 15, 18, 1E, 29, 33, 55, 65 (R66). -/
  | illegalF
  /-- Fewer than the two bytes of a word are left (R60). -/
  | truncated
deriving DecidableEq, Repr

/-- What the decoder answers: an instruction, or a rejection by name. -/
inductive Decoded where
  | instr (i : Instr)
  | rejected (r : Reject)
deriving DecidableEq, Repr

/-- Group 0: CLS, RET, otherwise SYS (R64 step 1). -/
def decodeGroup0 (op : Word) : Decoded :=
  if op = 0x00E0 then .instr .cls
  else if op = 0x00EE then .instr .ret
  else .instr (.sys (fieldNNN op))

/-- Group 8: the secondary field n selects among nine instructions (R64 step 6). -/
def decodeGroup8 (op : Word) : Decoded :=
  match (fieldN op).toNat with
  | 0x0 => .instr (.ldVxVy (fieldX op) (fieldY op))
  | 0x1 => .instr (.orVxVy (fieldX op) (fieldY op))
  | 0x2 => .instr (.andVxVy (fieldX op) (fieldY op))
  | 0x3 => .instr (.xorVxVy (fieldX op) (fieldY op))
  | 0x4 => .instr (.addVxVy (fieldX op) (fieldY op))
  | 0x5 => .instr (.subVxVy (fieldX op) (fieldY op))
  | 0x6 => .instr (.shrVx (fieldX op) (fieldY op))
  | 0x7 => .instr (.subnVxVy (fieldX op) (fieldY op))
  | 0xE => .instr (.shlVx (fieldX op) (fieldY op))
  | _ => .rejected .illegal8

/-- Group E: the secondary field nn is 9E or A1 (R64 step 7). -/
def decodeGroupE (op : Word) : Decoded :=
  if fieldNN op = 0x9E then .instr (.skpVx (fieldX op))
  else if fieldNN op = 0xA1 then .instr (.sknpVx (fieldX op))
  else .rejected .illegalE

/-- Group F: the secondary field nn selects among nine instructions (R64 step 8). -/
def decodeGroupF (op : Word) : Decoded :=
  if fieldNN op = 0x07 then .instr (.ldVxDt (fieldX op))
  else if fieldNN op = 0x0A then .instr (.ldVxK (fieldX op))
  else if fieldNN op = 0x15 then .instr (.ldDtVx (fieldX op))
  else if fieldNN op = 0x18 then .instr (.ldStVx (fieldX op))
  else if fieldNN op = 0x1E then .instr (.addIVx (fieldX op))
  else if fieldNN op = 0x29 then .instr (.ldFVx (fieldX op))
  else if fieldNN op = 0x33 then .instr (.ldBVx (fieldX op))
  else if fieldNN op = 0x55 then .instr (.ldMemVx (fieldX op))
  else if fieldNN op = 0x65 then .instr (.ldVxMem (fieldX op))
  else .rejected .illegalF

/-- The decode procedure of R64: every one of the 65536 words gives one of the 35 instructions or a rejection. -/
def decodeWord (op : Word) : Decoded :=
  match (fieldP op).toNat with
  | 0x0 => decodeGroup0 op
  | 0x1 => .instr (.jp (fieldNNN op))
  | 0x2 => .instr (.call (fieldNNN op))
  | 0x3 => .instr (.seVxNn (fieldX op) (fieldNN op))
  | 0x4 => .instr (.sneVxNn (fieldX op) (fieldNN op))
  | 0x5 => if fieldN op = 0 then .instr (.seVxVy (fieldX op) (fieldY op)) else .rejected .illegal5
  | 0x6 => .instr (.ldVxNn (fieldX op) (fieldNN op))
  | 0x7 => .instr (.addVxNn (fieldX op) (fieldNN op))
  | 0x8 => decodeGroup8 op
  | 0x9 => if fieldN op = 0 then .instr (.sneVxVy (fieldX op) (fieldY op)) else .rejected .illegal9
  | 0xA => .instr (.ldINnn (fieldNNN op))
  | 0xB => .instr (.jpV0Nnn (fieldNNN op))
  | 0xC => .instr (.rndVxNn (fieldX op) (fieldNN op))
  | 0xD => .instr (.drwVxVyN (fieldX op) (fieldY op) (fieldN op))
  | 0xE => decodeGroupE op
  | _ => decodeGroupF op

/-- Decoding a byte sequence: the first two bytes are the word, high byte first; the rest is handed back (R43, R60). -/
def decode : List Byte → Decoded × List Byte
  | hi :: lo :: rest => (decodeWord (wordOfBytes hi lo), rest)
  | short => (.rejected .truncated, short)

/-! ### Encoding (R61, R65) -/

/-- Format NNN: primary field and 12-bit address (R61). -/
def wordNNN (p : Nibble) (nnn : Addr12) : Word := p ++ nnn

/-- Formats XNN and XFF: primary field, x, and the low byte (R61). -/
def wordXNN (p : Nibble) (x : RegIx) (nn : Byte) : Word := p ++ nibbleOfReg x ++ nn

/-- Formats XYN and XYF: primary field, x, y, and the low nibble (R61). -/
def wordXYN (p : Nibble) (x y : RegIx) (n : Nibble) : Word :=
  p ++ nibbleOfReg x ++ nibbleOfReg y ++ n

/-- The word of an instruction: the pattern of its row of R65. -/
def encode : Instr → Word
  | .sys nnn => wordNNN 0x0 nnn
  | .cls => 0x00E0
  | .ret => 0x00EE
  | .jp nnn => wordNNN 0x1 nnn
  | .call nnn => wordNNN 0x2 nnn
  | .seVxNn x nn => wordXNN 0x3 x nn
  | .sneVxNn x nn => wordXNN 0x4 x nn
  | .seVxVy x y => wordXYN 0x5 x y 0x0
  | .ldVxNn x nn => wordXNN 0x6 x nn
  | .addVxNn x nn => wordXNN 0x7 x nn
  | .ldVxVy x y => wordXYN 0x8 x y 0x0
  | .orVxVy x y => wordXYN 0x8 x y 0x1
  | .andVxVy x y => wordXYN 0x8 x y 0x2
  | .xorVxVy x y => wordXYN 0x8 x y 0x3
  | .addVxVy x y => wordXYN 0x8 x y 0x4
  | .subVxVy x y => wordXYN 0x8 x y 0x5
  | .shrVx x y => wordXYN 0x8 x y 0x6
  | .subnVxVy x y => wordXYN 0x8 x y 0x7
  | .shlVx x y => wordXYN 0x8 x y 0xE
  | .sneVxVy x y => wordXYN 0x9 x y 0x0
  | .ldINnn nnn => wordNNN 0xA nnn
  | .jpV0Nnn nnn => wordNNN 0xB nnn
  | .rndVxNn x nn => wordXNN 0xC x nn
  | .drwVxVyN x y n => wordXYN 0xD x y n
  | .skpVx x => wordXNN 0xE x 0x9E
  | .sknpVx x => wordXNN 0xE x 0xA1
  | .ldVxDt x => wordXNN 0xF x 0x07
  | .ldVxK x => wordXNN 0xF x 0x0A
  | .ldDtVx x => wordXNN 0xF x 0x15
  | .ldStVx x => wordXNN 0xF x 0x18
  | .addIVx x => wordXNN 0xF x 0x1E
  | .ldFVx x => wordXNN 0xF x 0x29
  | .ldBVx x => wordXNN 0xF x 0x33
  | .ldMemVx x => wordXNN 0xF x 0x55
  | .ldVxMem x => wordXNN 0xF x 0x65

/-- The two bytes of a word in the order memory holds them (R43). -/
def bytesOfWord (op : Word) : List Byte := [hiByte op, loByte op]

/-- The bytes of an instruction in memory order. -/
def encodeBytes (i : Instr) : List Byte := bytesOfWord (encode i)

/-! ### The opcode map (R65) -/

/-- One row of R65: a word `w` selects it when `w AND mask = pattern` and `w` is none of the exceptions. -/
structure OpcodeRow where
  mnemonic : String
  mask : Word
  pattern : Word
  exceptions : List Word := []
deriving DecidableEq, Repr

/-- The row's test of a word (R65; SYS "in addition requires that the word is neither 0x00E0 nor 0x00EE"). -/
def OpcodeRow.selects (r : OpcodeRow) (w : Word) : Prop := w &&& r.mask = r.pattern ∧ w ∉ r.exceptions

/-- Rows 1 to 10 of R65. -/
def opcodeRowsA : List OpcodeRow :=
  [⟨"SYS_nnn", 0xF000, 0x0000, [0x00E0, 0x00EE]⟩, ⟨"CLS", 0xFFFF, 0x00E0, []⟩, ⟨"RET", 0xFFFF, 0x00EE, []⟩,
   ⟨"JP_nnn", 0xF000, 0x1000, []⟩, ⟨"CALL_nnn", 0xF000, 0x2000, []⟩, ⟨"SE_Vx_nn", 0xF000, 0x3000, []⟩,
   ⟨"SNE_Vx_nn", 0xF000, 0x4000, []⟩, ⟨"SE_Vx_Vy", 0xF00F, 0x5000, []⟩, ⟨"LD_Vx_nn", 0xF000, 0x6000, []⟩,
   ⟨"ADD_Vx_nn", 0xF000, 0x7000, []⟩]

/-- Rows 11 to 24 of R65. -/
def opcodeRowsB : List OpcodeRow :=
  [⟨"LD_Vx_Vy", 0xF00F, 0x8000, []⟩, ⟨"OR_Vx_Vy", 0xF00F, 0x8001, []⟩, ⟨"AND_Vx_Vy", 0xF00F, 0x8002, []⟩,
   ⟨"XOR_Vx_Vy", 0xF00F, 0x8003, []⟩, ⟨"ADD_Vx_Vy", 0xF00F, 0x8004, []⟩, ⟨"SUB_Vx_Vy", 0xF00F, 0x8005, []⟩,
   ⟨"SHR_Vx", 0xF00F, 0x8006, []⟩, ⟨"SUBN_Vx_Vy", 0xF00F, 0x8007, []⟩, ⟨"SHL_Vx", 0xF00F, 0x800E, []⟩,
   ⟨"SNE_Vx_Vy", 0xF00F, 0x9000, []⟩, ⟨"LD_I_nnn", 0xF000, 0xA000, []⟩, ⟨"JP_V0_nnn", 0xF000, 0xB000, []⟩,
   ⟨"RND_Vx_nn", 0xF000, 0xC000, []⟩, ⟨"DRW_Vx_Vy_n", 0xF000, 0xD000, []⟩]

/-- Rows 25 to 35 of R65. -/
def opcodeRowsC : List OpcodeRow :=
  [⟨"SKP_Vx", 0xF0FF, 0xE09E, []⟩, ⟨"SKNP_Vx", 0xF0FF, 0xE0A1, []⟩, ⟨"LD_Vx_DT", 0xF0FF, 0xF007, []⟩,
   ⟨"LD_Vx_K", 0xF0FF, 0xF00A, []⟩, ⟨"LD_DT_Vx", 0xF0FF, 0xF015, []⟩, ⟨"LD_ST_Vx", 0xF0FF, 0xF018, []⟩,
   ⟨"ADD_I_Vx", 0xF0FF, 0xF01E, []⟩, ⟨"LD_F_Vx", 0xF0FF, 0xF029, []⟩, ⟨"LD_B_Vx", 0xF0FF, 0xF033, []⟩,
   ⟨"LD__I__Vx", 0xF0FF, 0xF055, []⟩, ⟨"LD_Vx__I", 0xF0FF, 0xF065, []⟩]

/-- The opcode map: the 35 rows of R65. -/
def opcodeMap : List OpcodeRow := opcodeRowsA ++ opcodeRowsB ++ opcodeRowsC

/-! ### The host's numbering -/

/-- The instruction in the low `nbits` bits of `w`, numbered as spec/opcode_table.json numbers them: one 16-bit word, bits above
`nbits` zero, laid out high byte first and given to `decode`. -/
def decodeTableWord (nbits w : Nat) : Option Instr :=
  match decode (bytesOfWord (BitVec.ofNat 16 (w % 2 ^ nbits))) with
  | (.instr i, _) => some i
  | (.rejected _, _) => none

end Sys2Proof
end

