-- ==== Sys2Proof/Config.lean ====
section
/-!
DEFINITION. What the hardware fixes and no step changes: the parameters of spec/00_scope.md R4 with the values
this hardware takes, and the one free value of the model, the byte an unsupplied random source delivers.
-/

namespace Sys2Proof

/-- The two behaviours of the wait-for-key instruction the spec names (R183, D10). -/
inductive WaitKeyMode where
  /-- While no key is down the instruction repeats: what this hardware does. -/
  | block
  /-- The original code's behaviour: the PC advances and nothing is written. -/
  | noop
deriving DecidableEq, Repr

/-- `WAIT_KEY_MODE`, decided `block` for this hardware (R4, R183; log 3). -/
def Config.waitKeyMode : WaitKeyMode := .block

/-- The byte the random source delivers on its draw number `k` when the host has put no byte in the supply: a
FREE VALUE (R25: "no law constrains the sequence"; log 1). It has no body: nothing can be proved of its value. -/
opaque Config.randomByte : Nat → Byte

/-- `GLYPH_BYTES` (R4, R152). -/
def Config.glyphBytes : Nat := 5

/-- `PROG_BASE`: load origin and reset PC (R4, R230). -/
def Config.progBase : Word := 0x0200

/-- `MEM_SIZE` (R4, R40). -/
def Config.memSize : Nat := 65536

/-- `FONT[0..79]`, digits 0 to 7 (R47; log 2). -/
def Config.fontLow : List Byte :=
  [0xF0, 0x90, 0x90, 0x90, 0xF0,
   0x20, 0x60, 0x20, 0x20, 0x70,
   0xF0, 0x10, 0xF0, 0x80, 0xF0,
   0xF0, 0x10, 0xF0, 0x10, 0xF0,
   0x90, 0x90, 0xF0, 0x10, 0x10,
   0xF0, 0x80, 0xF0, 0x10, 0xF0,
   0xF0, 0x80, 0xF0, 0x90, 0xF0,
   0xF0, 0x10, 0x20, 0x40, 0x40]

/-- `FONT[0..79]`, digits 8 to F (R47; log 2). -/
def Config.fontHigh : List Byte :=
  [0xF0, 0x90, 0xF0, 0x90, 0xF0,
   0xF0, 0x90, 0xF0, 0x10, 0xF0,
   0xF0, 0x90, 0xF0, 0x90, 0x90,
   0xE0, 0x90, 0xE0, 0x90, 0xE0,
   0xF0, 0x80, 0x80, 0x80, 0xF0,
   0xE0, 0x90, 0x90, 0x90, 0xE0,
   0xF0, 0x80, 0xF0, 0x80, 0xF0,
   0xF0, 0x80, 0xF0, 0x80, 0x80]

/-- `FONT[0..79]`: 16 glyphs of 5 bytes, digit d at 5*d (R46, R47; log 2). -/
def Config.font : List Byte := Config.fontLow ++ Config.fontHigh

end Sys2Proof
end

