-- ==== Sys2Proof/Machine/State.lean ====
section
/-!
DEFINITION. The state of the core as plain data: everything the table of spec/10_state.md R27 lists, and the model's own
position in the random source (log 1); the reasons a step can stop; and the power-on state (R230).
-/

namespace Sys2Proof.Machine

/-- The value of the fault latch `ERR` (R20, R200). -/
inductive Err where
  | none
  | outOfBounds
  | stackOverflow
  | stackUnderflow
  | illegalInstruction
deriving DecidableEq, Repr

/-- The information word `ERR_INFO`: nothing, the PC of the faulting instruction, or that PC and the word (R20, R200). -/
inductive ErrInfo where
  | none
  | pc (at_ : Word)
  | pcOp (at_ op : Word)
deriving DecidableEq, Repr

/-- Memory: the bytes that differ from their power-on value, as (address, byte) pairs with rising addresses (R24, R40; log 6). -/
abbrev Memory := List Host.Cell

/-- The framebuffer: 32 rows of 64 one-bit cells. Cell `FB[y*64 + x]` is bit x of row y, 1 = lit (R22; log 7). -/
abbrev Framebuffer := Vector (BitVec 64) 32

/-- The machine's state between two operations (R27). -/
structure State where
  /-- General registers V0..VF; VF is also the flag register (R10, R11). -/
  v : Vector Byte 16
  /-- Index register I (R16). -/
  regI : Word
  /-- Program counter PC (R13). -/
  pc : Word
  /-- Stack pointer SP: how many return addresses the stack holds, 0..30, in 5 bits (R17, D15). -/
  sp : BitVec 5
  /-- Return addresses STACK[0..29] (R21). -/
  stack : Vector Word 30
  /-- Delay timer DT (R18). -/
  dt : Byte
  /-- Sound timer ST (R19). -/
  st : Byte
  /-- Framebuffer FB[0..2047] (R22). -/
  fb : Framebuffer
  /-- Key flags KEY[0..15], an input (R23). -/
  key : Vector Bool 16
  /-- Memory MEM[0..65535] (R24). -/
  mem : Memory
  /-- Fault latch ERR (R20). -/
  err : Err
  /-- Fault information ERR_INFO (R20). -/
  errInfo : ErrInfo
  /-- The model's own: bytes the host has supplied to the random source and no RND has consumed (R25; log 1). -/
  rndSupply : List Byte
  /-- The model's own: how many bytes of the random source have been consumed (R25; log 1). -/
  rndDraws : Nat
deriving DecidableEq, Repr

/-- What stops a step. The spec's own faults do not: they are latched in `ERR` and the step answers a next state (R205; log 4). -/
inductive Fault where
  /-- Raised by CALL and RET when SP names no stack entry, which needs SP = 31: the spec's SP is never 31 (R17), and no reachable
  state holds it (log 5). SAFE: the model stops where the spec has no state at all. -/
  | stackIndex
deriving DecidableEq, Repr

/-- What the model refuses. -/
inductive Refusal where
  /-- Raised by an arm of `exec` whose instruction has no meaning yet; no arm is left so. SAFE: the model stops. -/
  | notModelled (mnemonic : String)
deriving DecidableEq, Repr

/-- The outcome of a meaning and of a step. -/
abbrev Result := Host.Outcome State Fault Refusal

/-- The power-on state (R27, R230). Memory lists nothing, so every byte reads as its power-on value: the font, then 0x00. -/
def State.reset : State where
  v := Vector.replicate 16 0
  regI := 0
  pc := 0x0200
  sp := 0
  stack := Vector.replicate 30 0
  dt := 0
  st := 0
  fb := Vector.replicate 32 0
  key := Vector.replicate 16 false
  mem := []
  err := .none
  errInfo := .none
  rndSupply := []
  rndDraws := 0

end Sys2Proof.Machine
end

