-- ==== Sys2Proof/Machine/Ops.lean ====
section
/-!
DEFINITION. The named operations over the state: memory (spec/20_memory.md R41, R43, R46), registers, PC, stack, framebuffer,
random source, and taking a fault (spec/60_exceptions.md R205). Everything a meaning reads or writes goes through these.
-/

namespace Sys2Proof.Machine

/-! ### Memory (R40 to R46) -/

/-- What a byte of memory holds at power-on: the font at [0x000, 0x050), 0x00 elsewhere (R27, R46, R47). -/
def Memory.blank (a : Nat) : Byte := Config.font.getD a 0

/-- `MemRead(a, 1)` (R41). -/
def Memory.read : Memory → Nat → Byte
  | [], a => Memory.blank a
  | (k, b) :: rest, a => if a = k then b else Memory.read rest a

/-- `MemWrite(a, 1, b)` (R41). Writing the power-on value of a byte leaves no entry for it, so that equal memories are equal lists. -/
def Memory.write : Memory → Nat → Byte → Memory
  | [], a, b => if b = Memory.blank a then [] else [(a, b)]
  | (k, c) :: rest, a, b =>
    if a < k then (if b = Memory.blank a then (k, c) :: rest else (a, b) :: (k, c) :: rest)
    else if a = k then (if b = Memory.blank a then rest else (a, b) :: rest)
    else (k, c) :: Memory.write rest a b

/-- Every entry from address `lo` on, addresses strictly rising and inside the 65536 bytes, none at its power-on value. -/
def Memory.wfFrom : Nat → Memory → Bool
  | _, [] => true
  | lo, (k, b) :: rest => decide (lo ≤ k ∧ k < Config.memSize ∧ b ≠ Memory.blank k) && Memory.wfFrom (k + 1) rest

/-- The canonical form of a memory (log 6). -/
def Memory.wf (m : Memory) : Bool := Memory.wfFrom 0 m

/-- The `n` bytes from address `base` up. -/
def Memory.readBytes (m : Memory) (base : Nat) : Nat → List Byte
  | 0 => []
  | n + 1 => Memory.read m base :: Memory.readBytes m (base + 1) n

/-- The bytes of a list to consecutive addresses, the first at `base`. -/
def Memory.writeBytes (m : Memory) (base : Nat) : List Byte → Memory
  | [] => m
  | b :: bs => Memory.writeBytes (Memory.write m base b) (base + 1) bs

/-! ### Registers and the other fields -/

/-- The read `V[r]` (R6). -/
def State.getV (s : State) (r : RegIx) : Byte := s.v[r.val]

/-- `V[r] <- b` (R6). -/
def State.setV (s : State) (r : RegIx) (b : Byte) : State := { s with v := s.v.set r.val b }

/-- The flag register VF, `V[15]` (R11). -/
def vf : RegIx := 15

/-- All general registers at once: `f k` is the new `V[k]`. -/
def State.setAllV (s : State) (f : RegIx → Byte) : State := { s with v := Vector.ofFn f }

/-- `PC <- a`. -/
def State.setPc (s : State) (a : Word) : State := { s with pc := a }

/-- `I <- a`. -/
def State.setI (s : State) (a : Word) : State := { s with regI := a }

/-- `SP <- n`. -/
def State.setSp (s : State) (n : BitVec 5) : State := { s with sp := n }

/-- `STACK[k] <- a` (R21). -/
def State.setStackAt (s : State) (k : Fin 30) (a : Word) : State := { s with stack := s.stack.set k.val a }

/-- `DT <- b`. -/
def State.setDt (s : State) (b : Byte) : State := { s with dt := b }

/-- `ST <- b`. -/
def State.setSt (s : State) (b : Byte) : State := { s with st := b }

/-- The framebuffer replaced. -/
def State.setFb (s : State) (f : Framebuffer) : State := { s with fb := f }

/-- `KEY[k] <- down` (R217). -/
def State.setKeyAt (s : State) (k : RegIx) (down : Bool) : State := { s with key := s.key.set k.val down }

/-- The read `KEY[k]` (R6). -/
def State.keyAt (s : State) (k : RegIx) : Bool := s.key[k.val]

/-- Memory replaced. -/
def State.setMem (s : State) (m : Memory) : State := { s with mem := m }

/-- The byte at address `a`. -/
def State.readMem (s : State) (a : Nat) : Byte := Memory.read s.mem a

/-! ### The end of an instruction: PC (R14, R100) -/

/-- `npc = (PC + 2) mod 2^16`: the address of the next sequential instruction (R14). -/
def State.npc (s : State) : Word := s.pc + 2

/-- The end of every instruction that does not assign PC: `PC <- npc` (R100 step 6). -/
def finish (s : State) : Result := .next (s.setPc s.npc)

/-- The end of an instruction that assigns PC: `PC <- a`. -/
def jumpTo (a : Word) (s : State) : Result := .next (s.setPc a)

/-- The end of a skip: `PC <- npc + 2` if taken, `PC <- npc` otherwise, both modulo 2^16 (R14). -/
def skipIf (taken : Bool) (s : State) : Result := .next (s.setPc (if taken then s.npc + 2 else s.npc))

/-! ### Taking a fault (R205) -/

/-- `raise F(info)`: ERR and ERR_INFO are written and nothing else; PC stays at the faulting instruction (R205). -/
def State.latch (s : State) (e : Err) (info : ErrInfo) : State := { s with err := e, errInfo := info }

/-- `raise F(PC)`: the fault entry of OutOfBounds, StackOverflow and StackUnderflow (R200). -/
def raisePc (e : Err) (s : State) : Result := .next (s.latch e (.pc s.pc))

/-- `raise IllegalInstruction(PC, op)` (R200, R204). -/
def raiseIllegal (op : Word) (s : State) : Result := .next (s.latch .illegalInstruction (.pcOp s.pc op))

/-- The numeric code of an error kind (R200). -/
def Err.code : Err → Nat
  | .none => 0
  | .outOfBounds => 1
  | .stackOverflow => 2
  | .stackUnderflow => 3
  | .illegalInstruction => 4

/-! ### The stack (R17, R21, R102, R104) -/

/-- CALL's push: `STACK[SP] <- a; SP <- SP + 1`, then `PC <- target`; StackOverflow at SP = 30 (R104). -/
def pushAndJump (a target : Word) (s : State) : Result :=
  if s.sp = 30 then raisePc .stackOverflow s
  else if h : s.sp.toNat < 30 then jumpTo target ((s.setStackAt ⟨s.sp.toNat, h⟩ a).setSp (s.sp + 1))
  else .fault .stackIndex

/-- RET's pop: `SP <- SP - 1; PC <- STACK[SP]`; StackUnderflow at SP = 0. The entry is not erased (R102). -/
def popAndJump (s : State) : Result :=
  if s.sp = 0 then raisePc .stackUnderflow s
  else if h : s.sp.toNat - 1 < 30 then jumpTo (s.stack[s.sp.toNat - 1]) (s.setSp (s.sp - 1))
  else .fault .stackIndex

/-! ### The framebuffer (R22) -/

/-- Cell (px, py): bit px of row py. -/
def Framebuffer.cell (f : Framebuffer) (px : Fin 64) (py : Fin 32) : Bool := f[py.val].getLsbD px.val

/-- `FB[idx] <- FB[idx] ^ 1` at (px, py). -/
def Framebuffer.flip (f : Framebuffer) (px : Fin 64) (py : Fin 32) : Framebuffer :=
  f.set py.val (f[py.val] ^^^ (1#64 <<< px.val))

/-- `FB[k]`, k = y*64 + x (R22). -/
def State.pixel (s : State) (k : Fin 2048) : Bool :=
  Framebuffer.cell s.fb ⟨k.val % 64, by omega⟩ ⟨k.val / 64, by omega⟩

/-- All 2048 cells 0 (R170). -/
def Framebuffer.clear : Framebuffer := Vector.replicate 32 0

/-! ### The random source (R25) -/

/-- The byte `RandomByte()` returns: the oldest byte of the supply, or the free value where the supply is empty (log 1). -/
def State.randomByte (s : State) : Byte :=
  match s.rndSupply with
  | b :: _ => b
  | [] => Config.randomByte s.rndDraws

/-- One byte is consumed from the random source (R25, R131). -/
def State.consumeRandom (s : State) : State := { s with rndSupply := s.rndSupply.tail, rndDraws := s.rndDraws + 1 }

/-! ### Instruction fetch (R43) -/

/-- `MemRead(PC, 2)`: the word at PC, high byte first, at any parity (R43, R44). Used only where PC is not 0xFFFF. -/
def State.fetchWord (s : State) : Word := wordOfBytes (s.readMem s.pc.toNat) (s.readMem (s.pc.toNat + 1))

/-- A word stored at PC, high byte first, where the next Step fetches it (R43). -/
def State.placeWord (s : State) (op : Word) : State := s.setMem (Memory.writeBytes s.mem s.pc.toNat (bytesOfWord op))

end Sys2Proof.Machine
end

