-- ==== Sys2Proof/Machine/Operands.lean ====
section
/-!
DEFINITION. Operand forms: immediates (spec/30_encoding.md R63), the one addressing mode I + k with its bounds check
(spec/42_index_and_memory.md R156), the font address (R152), decimal digits (R153), key numbers (R183, R184) and sprite bits (R171).
-/

namespace Sys2Proof.Machine

/-- `zext_16(nnn)` (R63). -/
def zext12 (nnn : Addr12) : Word := nnn.setWidth 16

/-- `zext_16(V[x])`. -/
def zext8 (b : Byte) : Word := b.setWidth 16

/-- The bounds condition of an access to I .. I + last: the highest address, an unbounded integer, is at most 0xFFFF (R42, R156). -/
def blockFits (base : Word) (last : Nat) : Bool := decide (base.toNat + last ≤ 0xFFFF)

/-- The font address of LD F,Vx: `zext_16(V[x]) * 5`, the whole byte, no mask (R152). -/
def fontAddress (b : Byte) : Word := BitVec.ofNat 16 (b.toNat * Config.glyphBytes)

/-- The three decimal digits of LD B,Vx: hundreds, tens, ones (R153). -/
def bcdDigits (b : Byte) : List Byte :=
  [BitVec.ofNat 8 (b.toNat / 100), BitVec.ofNat 8 (b.toNat / 10 % 10), BitVec.ofNat 8 (b.toNat % 10)]

/-- The registers V0 up to and including V[x], V0 first (R63). -/
def registersUpTo (x : RegIx) (s : State) : List Byte := s.v.toList.take (x.val + 1)

/-- The key number of SKP and SKNP: `V[x][3:0]` (R184). -/
def keyNumber (b : Byte) : RegIx := regOfNibble (b.extractLsb' 0 4)

/-- The smallest key that is down, if any (R183). -/
def lowestKeyDown (s : State) : Option RegIx := (List.finRange 16).find? (fun k => s.keyAt k)

/-- The byte of a key number: `zext_8(k)` (R183). -/
def byteOfKey (k : RegIx) : Byte := BitVec.ofNat 8 k.val

/-- Bit of a sprite row in column `col`: column 0 is bit 7 (R171). -/
def spriteBit (b : Byte) (col : Nat) : Bool := b.getLsbD (7 - col)

end Sys2Proof.Machine
end

