-- ==== Sys2Proof/Machine/Flags.lean ====
section
/-!
DEFINITION. The flag computations of the ALU (spec/41_alu.md R126 to R133) and the order in which a result and its flag
are written: the result to V[x] first, the flag to VF last (R132).
-/

namespace Sys2Proof.Machine

/-- A flag as the byte VF holds: 1 or 0 (R15). -/
def flagByte (f : Bool) : Byte := if f then 1 else 0

/-- ADD's flag: the unsigned sum is above 255 (R126). -/
def carryOut (a b : Byte) : Bool := decide (a.toNat + b.toNat > 255)

/-- SUB's and SUBN's flag: strictly greater, unsigned (R127, R129). -/
def strictlyGreater (a b : Byte) : Bool := decide (a.toNat > b.toNat)

/-- SHR's flag: the bit shifted out, bit 0 (R128). -/
def lowBit (a : Byte) : Bool := a.getLsbD 0

/-- SHL's flag: the bit shifted out, bit 7 (R130). -/
def highBit (a : Byte) : Bool := a.getLsbD 7

/-- The two writes of a flag-writing ALU instruction, result first and flag last, so that with x = 15 VF ends as the flag (R132). -/
def writeResultThenFlag (x : RegIx) (result : Byte) (flag : Bool) (s : State) : State :=
  (s.setV x result).setV vf (flagByte flag)

end Sys2Proof.Machine
end

