-- ==== Sys2Proof/Machine/Alu.lean ====
section
/-!
DEFINITION. The meanings of the register ALU instructions (spec/41_alu.md R120 to R131). Both operands are read from the
state at the start, then the result is written, then the flag (R132); BitVec addition and subtraction wrap modulo 256 (R133).
-/

namespace Sys2Proof.Machine

/-- LD Vx,nn (R120). -/
def execLdVxNn (x : RegIx) (nn : Byte) (s : State) : Result := finish (s.setV x nn)

/-- ADD Vx,nn (R121): no flag. -/
def execAddVxNn (x : RegIx) (nn : Byte) (s : State) : Result := finish (s.setV x (s.getV x + nn))

/-- LD Vx,Vy (R122). -/
def execLdVxVy (x y : RegIx) (s : State) : Result := finish (s.setV x (s.getV y))

/-- OR Vx,Vy (R123): VF untouched. -/
def execOrVxVy (x y : RegIx) (s : State) : Result := finish (s.setV x (s.getV x ||| s.getV y))

/-- AND Vx,Vy (R124): VF untouched. -/
def execAndVxVy (x y : RegIx) (s : State) : Result := finish (s.setV x (s.getV x &&& s.getV y))

/-- XOR Vx,Vy (R125): VF untouched. -/
def execXorVxVy (x y : RegIx) (s : State) : Result := finish (s.setV x (s.getV x ^^^ s.getV y))

/-- ADD Vx,Vy (R126): VF = carry out. -/
def execAddVxVy (x y : RegIx) (s : State) : Result :=
  finish (writeResultThenFlag x (s.getV x + s.getV y) (carryOut (s.getV x) (s.getV y)) s)

/-- SUB Vx,Vy (R127): VF = 1 exactly when Vx > Vy, strictly. -/
def execSubVxVy (x y : RegIx) (s : State) : Result :=
  finish (writeResultThenFlag x (s.getV x - s.getV y) (strictlyGreater (s.getV x) (s.getV y)) s)

/-- SHR Vx (R128): Vx itself is shifted, y is not used (R68). -/
def execShrVx (x _y : RegIx) (s : State) : Result :=
  finish (writeResultThenFlag x (s.getV x >>> 1) (lowBit (s.getV x)) s)

/-- SUBN Vx,Vy (R129): VF = 1 exactly when Vy > Vx, strictly. -/
def execSubnVxVy (x y : RegIx) (s : State) : Result :=
  finish (writeResultThenFlag x (s.getV y - s.getV x) (strictlyGreater (s.getV y) (s.getV x)) s)

/-- SHL Vx (R130): Vx itself is shifted, y is not used (R68). -/
def execShlVx (x _y : RegIx) (s : State) : Result :=
  finish (writeResultThenFlag x (s.getV x <<< 1) (highBit (s.getV x)) s)

/-- RND Vx,nn (R131): one byte of the random source, masked with nn. -/
def execRndVxNn (x : RegIx) (nn : Byte) (s : State) : Result :=
  finish (s.consumeRandom.setV x (s.randomByte &&& nn))

end Sys2Proof.Machine
end

