-- ==== Sys2Proof/Machine/Control.lean ====
section
/-!
DEFINITION. The meanings of the control-transfer instructions (spec/40_control_transfer.md R101 to R109).
-/

namespace Sys2Proof.Machine

/-- SYS nnn (R101): always `raise IllegalInstruction(PC, op)`, op being the word 0nnn. -/
def execSys (nnn : Addr12) (s : State) : Result := raiseIllegal (wordNNN 0x0 nnn) s

/-- RET (R102). -/
def execRet (s : State) : Result := popAndJump s

/-- JP nnn (R103). -/
def execJp (nnn : Addr12) (s : State) : Result := jumpTo (zext12 nnn) s

/-- CALL nnn (R104): the pushed address is npc, the instruction after the CALL. -/
def execCall (nnn : Addr12) (s : State) : Result := pushAndJump s.npc (zext12 nnn) s

/-- SE Vx,nn (R105). -/
def execSeVxNn (x : RegIx) (nn : Byte) (s : State) : Result := skipIf (s.getV x == nn) s

/-- SNE Vx,nn (R106). -/
def execSneVxNn (x : RegIx) (nn : Byte) (s : State) : Result := skipIf (s.getV x != nn) s

/-- SE Vx,Vy (R107). -/
def execSeVxVy (x y : RegIx) (s : State) : Result := skipIf (s.getV x == s.getV y) s

/-- SNE Vx,Vy (R108). -/
def execSneVxVy (x y : RegIx) (s : State) : Result := skipIf (s.getV x != s.getV y) s

/-- JP V0,nnn (R109): `PC <- zext_16(nnn) + zext_16(V[0])`, not reduced to 12 bits. -/
def execJpV0Nnn (nnn : Addr12) (s : State) : Result := jumpTo (zext12 nnn + zext8 (s.getV 0)) s

end Sys2Proof.Machine
end

