-- ==== Sys2Proof/Machine/Display.lean ====
section
/-!
DEFINITION. The meanings of the display instructions (spec/43_display.md R170, R171), the draw algorithm written loop for loop.
-/

namespace Sys2Proof.Machine

/-- The column a sprite bit lands in: `(vx + col) mod 64` (R171). -/
def wrapColumn (vx col : Nat) : Fin 64 := ⟨(vx + col) % 64, by omega⟩

/-- The row a sprite byte lands in: `(vy + row) mod 32` (R171). -/
def wrapRow (vy row : Nat) : Fin 32 := ⟨(vy + row) % 32, by omega⟩

/-- One set sprite bit: the collision flag is set if the cell was lit, and the cell is XORed with 1 (R171). -/
def drawPixel (px : Fin 64) (py : Fin 32) (p : Framebuffer × Bool) : Framebuffer × Bool :=
  (Framebuffer.flip p.1 px py, p.2 || Framebuffer.cell p.1 px py)

/-- The inner loop: columns 0..7 of one sprite byte; a sprite bit of 0 leaves its pixel alone (R171). -/
def drawRow (vx : Nat) (py : Fin 32) (b : Byte) (p : Framebuffer × Bool) : Framebuffer × Bool :=
  (List.range 8).foldl (fun q col => if spriteBit b col then drawPixel (wrapColumn vx col) py q else q) p

/-- The outer loop: the sprite bytes from row number `row` on (R171). -/
def drawRows (vx vy : Nat) : Nat → List Byte → Framebuffer × Bool → Framebuffer × Bool
  | _, [], p => p
  | row, b :: bs, p => drawRows vx vy (row + 1) bs (drawRow vx (wrapRow vy row) b p)

/-- CLS (R170): all 2048 cells 0. -/
def execCls (s : State) : Result := finish (s.setFb Framebuffer.clear)

/-- DRW Vx,Vy,n (R171): the origin is read first; then the bounds check; VF starts at 0 and ends as the cumulated collision flag.
With n = 0 no memory is read, so there is no bounds condition. -/
def execDrwVxVyN (x y : RegIx) (n : Nibble) (s : State) : Result :=
  if n = 0 || blockFits s.regI (n.toNat - 1) then
    let sprite := Memory.readBytes s.mem s.regI.toNat n.toNat
    let p := drawRows (s.getV x).toNat (s.getV y).toNat 0 sprite (s.fb, false)
    finish ((s.setFb p.1).setV vf (flagByte p.2))
  else raisePc .outOfBounds s

end Sys2Proof.Machine
end

