-- ==== Sys2Proof/Machine/Index.lean ====
section
/-!
DEFINITION. The meanings of the index-register and memory instructions (spec/42_index_and_memory.md R150 to R155). The
whole range of an access is checked before anything is written, and I is never modified by an access (R156).
-/

namespace Sys2Proof.Machine

/-- LD I,nnn (R150). -/
def execLdINnn (nnn : Addr12) (s : State) : Result := finish (s.setI (zext12 nnn))

/-- ADD I,Vx (R151): modulo 2^16, no flag. -/
def execAddIVx (x : RegIx) (s : State) : Result := finish (s.setI (s.regI + zext8 (s.getV x)))

/-- LD F,Vx (R152). -/
def execLdFVx (x : RegIx) (s : State) : Result := finish (s.setI (fontAddress (s.getV x)))

/-- LD B,Vx (R153): hundreds, tens, ones at I, I + 1, I + 2. -/
def execLdBVx (x : RegIx) (s : State) : Result :=
  if blockFits s.regI 2 then finish (s.setMem (Memory.writeBytes s.mem s.regI.toNat (bcdDigits (s.getV x))))
  else raisePc .outOfBounds s

/-- LD [I],Vx (R154): V0..V[x] at I .. I + x. -/
def execLdMemVx (x : RegIx) (s : State) : Result :=
  if blockFits s.regI x.val then finish (s.setMem (Memory.writeBytes s.mem s.regI.toNat (registersUpTo x s)))
  else raisePc .outOfBounds s

/-- LD Vx,[I] (R155): V0..V[x] from I .. I + x; registers above x keep their values. -/
def execLdVxMem (x : RegIx) (s : State) : Result :=
  if blockFits s.regI x.val then
    finish (s.setAllV (fun k => if k ≤ x then s.readMem (s.regI.toNat + k.val) else s.getV k))
  else raisePc .outOfBounds s

end Sys2Proof.Machine
end

