-- ==== Sys2Proof/Machine/Timers.lean ====
section
/-!
DEFINITION. The meanings of the timer and key instructions (spec/44_timers_and_keys.md R180 to R185). None can fault; the timers
are decremented by Tick only (Machine/System.lean).
-/

namespace Sys2Proof.Machine

/-- LD Vx,DT (R180). -/
def execLdVxDt (x : RegIx) (s : State) : Result := finish (s.setV x s.dt)

/-- LD DT,Vx (R181). -/
def execLdDtVx (x : RegIx) (s : State) : Result := finish (s.setDt (s.getV x))

/-- LD ST,Vx (R182). -/
def execLdStVx (x : RegIx) (s : State) : Result := finish (s.setSt (s.getV x))

/-- The wait-for-key instruction in either mode (R183). In `block` mode with no key down the PC stays, so the next Step fetches the
same instruction again; otherwise the lowest-numbered key that is down is stored. -/
def waitForKey (mode : WaitKeyMode) (x : RegIx) (s : State) : Result :=
  match mode with
  | .noop => finish s
  | .block =>
    match lowestKeyDown s with
    | none => jumpTo s.pc s
    | some k => finish (s.setV x (byteOfKey k))

/-- LD Vx,K (R183), with `WAIT_KEY_MODE` as this hardware sets it. -/
def execLdVxK (x : RegIx) (s : State) : Result := waitForKey Config.waitKeyMode x s

/-- SKP Vx (R184): the low 4 bits of Vx select the key. -/
def execSkpVx (x : RegIx) (s : State) : Result := skipIf (s.keyAt (keyNumber (s.getV x))) s

/-- SKNP Vx (R185). -/
def execSknpVx (x : RegIx) (s : State) : Result := skipIf (!s.keyAt (keyNumber (s.getV x))) s

end Sys2Proof.Machine
end

