-- ==== Sys2Proof/Machine/Cycle.lean ====
section
/-!
DEFINITION. The Step cycle (spec/40_control_transfer.md R100): latched fault, fetch, decode, execute, as one atomic transition.
-/

namespace Sys2Proof.Machine

/-- Step (R100). Step 1: a latched fault, nothing changes (R206). Step 2: PC = 0xFFFF, OutOfBounds. Steps 3 to 5: the word at PC is
decoded; an illegal word raises IllegalInstruction(PC, op), an instruction is executed. Step 6, the PC, is in each meaning's end. -/
def stepCycle (s : State) : Result :=
  if s.err ≠ .none then .next s
  else if s.pc = 0xFFFF then raisePc .outOfBounds s
  else
    match decodeWord s.fetchWord with
    | .rejected _ => raiseIllegal s.fetchWord s
    | .instr i => exec i s

/-- The word numbered as spec/opcode_table.json numbers it (bit 0 least significant, bits above `nbits` zero), placed at PC. -/
def placeTableWord (s : State) (nbits w : Nat) : State := s.placeWord (BitVec.ofNat 16 (w % 2 ^ nbits))

end Sys2Proof.Machine
end

