-- ==== Sys2Proof/Machine/Step.lean ====
section
/-!
DEFINITION. One step of the machine, and the host's way of placing an instruction where the next step fetches it (log 9).
-/

namespace Sys2Proof.Machine

/-- Step: exactly one fetch-decode-execute cycle (R100, R216). -/
def step (s : State) : Host.Outcome State Fault Refusal := stepCycle s

/-- `s` with the instruction in the low `nbits` bits of `w` stored at PC and PC + 1, high byte first (R43), and nothing else changed.
With no fault latched and PC other than 0xFFFF the next step fetches and runs exactly it. -/
def State.withFetchWord (s : State) (nbits w : Nat) : State := placeTableWord s nbits w

end Sys2Proof.Machine
end

