-- ==== Sys2Proof/Machine/System.lean ====
section
/-!
DEFINITION. The operations of the host at the core's boundary (spec/60_exceptions.md R214 to R222, R228; spec/20_memory.md R50;
spec/70_reset_and_hazards.md R231). Each is one atomic transition; any sequence of them, in any order, is a behaviour (R222).
-/

namespace Sys2Proof.Machine

/-- What the host can ask of the core (R228). -/
inductive HostOp where
  /-- One fetch-decode-execute cycle (R216). -/
  | step
  /-- One countdown event (R214). -/
  | tick
  /-- A key goes down or up (R217). -/
  | keyWrite (k : RegIx) (down : Bool)
  /-- The framebuffer is read (R218). -/
  | fbRead
  /-- A program image is loaded (R50, R219). -/
  | load (image : List Byte)
  /-- The Reset operation (R220, R231). -/
  | reset
  /-- A byte is added to the random source's supply (R25, R228). -/
  | supplyRandom (b : Byte)
deriving DecidableEq, Repr

/-- What comes back to the host (R228, last column). -/
inductive HostReply where
  /-- Nothing. -/
  | done
  /-- FbRead's 2048 cells, row-major (R218). -/
  | frame (cells : List Bool)
  /-- An oversized Load is refused and the host told OutOfBounds; ERR is not latched (R50). -/
  | loadRefused (e : Err)
deriving DecidableEq, Repr

/-- One timer's countdown: it stops at 0 and never wraps (R214). -/
def countDown (b : Byte) : Byte := if b = 0 then 0 else b - 1

/-- Tick (R214): both timers in one event; nothing else changes. -/
def State.tick (s : State) : State := (s.setDt (countDown s.dt)).setSt (countDown s.st)

/-- KeyWrite(k, b) (R217). -/
def State.keyWrite (s : State) (k : RegIx) (down : Bool) : State := s.setKeyAt k down

/-- FbRead() (R218): the 2048 cells in index order. -/
def State.fbRead (s : State) : List Bool := (List.finRange 2048).map s.pixel

/-- The largest image Load accepts: 65536 - 0x200 = 65024 bytes (R50). -/
def maxImageLength : Nat := Config.memSize - Config.progBase.toNat

/-- Load(image) (R50): bytes to 0x200 on and nothing else; an oversized image is refused as a whole. -/
def State.load (s : State) (image : List Byte) : State :=
  if image.length ≤ maxImageLength then s.setMem (Memory.writeBytes s.mem Config.progBase.toNat image) else s

/-- What Load answers (R50). -/
def loadReply (image : List Byte) : HostReply :=
  if image.length ≤ maxImageLength then .done else .loadRefused .outOfBounds

/-- The Reset operation (R231): the power-on state in every observable respect. The stack entries keep their old values (D15; log 10)
and the random source is not touched (R25). -/
def State.resetOperation (s : State) : State :=
  { State.reset with stack := s.stack, rndSupply := s.rndSupply, rndDraws := s.rndDraws }

/-- The host hands one more byte to the random source (R25, R228; log 1). -/
def State.supplyRandom (s : State) (b : Byte) : State := { s with rndSupply := s.rndSupply ++ [b] }

/-- One operation's transition. -/
def operate (o : HostOp) (s : State) : Result :=
  match o with
  | .step => step s
  | .tick => .next s.tick
  | .keyWrite k down => .next (s.keyWrite k down)
  | .fbRead => .next s
  | .load image => .next (s.load image)
  | .reset => .next s.resetOperation
  | .supplyRandom b => .next (s.supplyRandom b)

/-- One operation's answer to the host, asked in the state the operation finds. -/
def reply (o : HostOp) (s : State) : HostReply :=
  match o with
  | .step => .done
  | .tick => .done
  | .keyWrite _ _ => .done
  | .fbRead => .frame s.fbRead
  | .load image => loadReply image
  | .reset => .done
  | .supplyRandom _ => .done

/-- A behaviour of the system: the operations of a list one after the other, in the order the host chose (R222). -/
def operateAll : List HostOp → State → Result
  | [], s => .next s
  | o :: os, s =>
    match operate o s with
    | .next t => operateAll os t
    | .fault r => .fault r
    | .refused r => .refused r

end Sys2Proof.Machine
end

