-- ==== Sys2Proof/Safety.lean ====
section
/-!
DEFINITION. What the statements about the machine are said in: the pieces of the state and frames over them, the invariant of every
legal state, the parked states of R227, and the cells a sprite covers (R171).
-/

namespace Sys2Proof.Machine

/-! ### Frames -/

/-- A piece of the state, down to one register, one stack entry, one pixel, one key flag, one byte of memory. -/
inductive Piece where
  | v (r : RegIx)
  | regI
  | pc
  | sp
  | stack (k : Fin 30)
  | dt
  | st
  | pixel (k : Fin 2048)
  | key (k : RegIx)
  | mem (a : Nat)
  | err
  | errInfo
  | rndSupply
  | rndDraws
deriving DecidableEq, Repr

/-- Two states hold the same in one piece. -/
def Piece.SameIn (p : Piece) (s t : State) : Prop :=
  match p with
  | .v r => t.getV r = s.getV r
  | .regI => t.regI = s.regI
  | .pc => t.pc = s.pc
  | .sp => t.sp = s.sp
  | .stack k => t.stack[k.val] = s.stack[k.val]
  | .dt => t.dt = s.dt
  | .st => t.st = s.st
  | .pixel k => t.pixel k = s.pixel k
  | .key k => t.keyAt k = s.keyAt k
  | .mem a => t.readMem a = s.readMem a
  | .err => t.err = s.err
  | .errInfo => t.errInfo = s.errInfo
  | .rndSupply => t.rndSupply = s.rndSupply
  | .rndDraws => t.rndDraws = s.rndDraws

/-- From `s` to `t` nothing changes but, at most, the pieces named by `allowed`. -/
def OnlyChanges (allowed : Piece → Prop) (s t : State) : Prop := ∀ p, ¬ allowed p → p.SameIn s t

/-- The entry of a fault whose information word is the PC (R200, R205). -/
def FaultsWith (e : Err) (s : State) (o : Result) : Prop := o = .next { s with err := e, errInfo := .pc s.pc }

/-- The PC moves `d` bytes on, modulo 2^16 (R14). -/
def AdvancesBy (d : Nat) (s t : State) : Prop := t.pc.toNat = (s.pc.toNat + d) % 65536

/-- Which general registers an instruction may write: the last column of the table of R12. -/
def writesRegister (i : Instr) (r : RegIx) : Bool :=
  match i with
  | .sys _ => false
  | .cls => false
  | .ret => false
  | .jp _ => false
  | .call _ => false
  | .seVxNn _ _ => false
  | .sneVxNn _ _ => false
  | .seVxVy _ _ => false
  | .ldVxNn x _ => r == x
  | .addVxNn x _ => r == x
  | .ldVxVy x _ => r == x
  | .orVxVy x _ => r == x
  | .andVxVy x _ => r == x
  | .xorVxVy x _ => r == x
  | .addVxVy x _ => r == x || r == vf
  | .subVxVy x _ => r == x || r == vf
  | .shrVx x _ => r == x || r == vf
  | .subnVxVy x _ => r == x || r == vf
  | .shlVx x _ => r == x || r == vf
  | .sneVxVy _ _ => false
  | .ldINnn _ => false
  | .jpV0Nnn _ => false
  | .rndVxNn x _ => r == x
  | .drwVxVyN _ _ _ => r == vf
  | .skpVx _ => false
  | .sknpVx _ => false
  | .ldVxDt x => r == x
  | .ldVxK x => r == x
  | .ldDtVx _ => false
  | .ldStVx _ => false
  | .addIVx _ => false
  | .ldFVx _ => false
  | .ldBVx _ => false
  | .ldMemVx _ => false
  | .ldVxMem x => decide (r ≤ x)

/-- Instructions executed one after the other, each on the state the one before it leaves. -/
def execAll : List Instr → State → Result
  | [], s => .next s
  | i :: is, s =>
    match exec i s with
    | .next t => execAll is t
    | .fault r => .fault r
    | .refused r => .refused r

/-! ### The legal states -/

/-- A word whose Step is an IllegalInstruction fault: a SYS word or an illegal word (R204). -/
def isFaultingWord (op : Word) : Bool :=
  match decodeWord op with
  | .instr (.sys _) => true
  | .instr _ => false
  | .rejected _ => true

/-- ERR and ERR_INFO tell one story (R200): no information without a fault; the recorded PC is the PC, which stays at the faulting
instruction; a stack fault stands beside the SP that caused it; an IllegalInstruction names a word that is one. -/
def State.latchConsistent (s : State) : Bool :=
  match s.err, s.errInfo with
  | .none, .none => true
  | .outOfBounds, .pc a => a == s.pc
  | .stackOverflow, .pc a => a == s.pc && s.sp == 30
  | .stackUnderflow, .pc a => a == s.pc && s.sp == 0
  | .illegalInstruction, .pcOp a op => a == s.pc && isFaultingWord op
  | _, _ => false

/-- The invariant of the machine: memory is in its canonical form, SP is within 0..30 (R17), the fault latch is consistent (R200). -/
def State.Inv (s : State) : Prop := Memory.wf s.mem = true ∧ s.sp.toNat ≤ 30 ∧ s.latchConsistent = true

/-! ### Parked programs and sprites -/

/-- The parked state of R227: PC = a at most 0x0FFF and the word at a is a JP to a itself. -/
def State.Parked (s : State) : Prop :=
  s.pc.toNat ≤ 0x0FFF ∧ s.fetchWord = 0x1000 ||| s.pc

/-- A set bit of the sprite at I, of `n` rows and with its origin at (vx, vy), lands on cell `k` (R171). -/
def SpriteCovers (s : State) (vx vy : Byte) (n : Nibble) (k : Fin 2048) : Prop :=
  ∃ row < n.toNat, ∃ col < 8, spriteBit (s.readMem (s.regI.toNat + row)) col = true ∧
    k.val = (vy.toNat + row) % 32 * 64 + (vx.toNat + col) % 64

end Sys2Proof.Machine
end

