-- ==== Sys2Proof/Certificates/Slice0/Obligations.lean ====
section
/-!
DEFINITION. The statements about the model, each formalising rules of spec/ (the docstring says which). A frame `OnlyChanges` covers
every register, both special pointers, every stack entry, pixel, key flag and byte of memory, the timers, the fault latch and the
random source, down to one item each (Safety.lean). PC arithmetic is written with numbers, as the rules write it.
-/

open Sys2Proof Sys2Proof.Machine

/-! ### Encoding and decoding (30_encoding.md) -/

/-- Decoding the bytes of any well-formed instruction gives back that instruction and the bytes after it (R60 to R65). -/
def Obligations.DecodeOfEncode : Prop :=
  ∀ (i : Instr) (rest : List Byte), i.wellFormed = true → decode (encodeBytes i ++ rest) = (.instr i, rest)

/-- A word that decodes to an instruction is that instruction's own encoding, and the instruction is well formed (R62, R64). -/
def Obligations.EncodeOfDecode : Prop :=
  ∀ (w : Word) (i : Instr), decodeWord w = .instr i → encode i = w ∧ i.wellFormed = true

/-- R65: a word selects a row of the opcode map (`op & mask = match`, SYS not for 00E0 and 00EE) exactly when it decodes to the
instruction of that row. -/
def Obligations.DecodeFollowsOpcodeMap : Prop :=
  ∀ (w : Word), ∀ r ∈ opcodeMap, r.selects w ↔ ∃ i, decodeWord w = .instr i ∧ i.mnemonic = r.mnemonic

/-- R66's list of illegal words: these words, and no others, are rejected (R66, R67, D5, D7). -/
def Obligations.IllegalWordsAreRejected : Prop :=
  ∀ w : Word, (∃ r, decodeWord w = .rejected r) ↔
    (fieldP w = 0x5 ∧ fieldN w ≠ 0) ∨
    (fieldP w = 0x8 ∧ fieldN w ∈ ([0x8, 0x9, 0xA, 0xB, 0xC, 0xD, 0xF] : List Nibble)) ∨
    (fieldP w = 0x9 ∧ fieldN w ≠ 0) ∨
    (fieldP w = 0xE ∧ fieldNN w ∉ ([0x9E, 0xA1] : List Byte)) ∨
    (fieldP w = 0xF ∧ fieldNN w ∉ ([0x07, 0x0A, 0x15, 0x18, 0x1E, 0x29, 0x33, 0x55, 0x65] : List Byte))

/-- The five words of the source and a few more, written out from the patterns of R65 (sanity). -/
def Obligations.ExampleWordsDecode : Prop :=
  decodeWord 0x00E0 = .instr .cls ∧ decodeWord 0x1200 = .instr (.jp 0x200) ∧
  decodeWord 0x6005 = .instr (.ldVxNn 0 0x05) ∧ decodeWord 0x7003 = .instr (.addVxNn 0 0x03) ∧
  decodeWord 0x8001 = .instr (.orVxVy 0 0) ∧ decodeWord 0xD12F = .instr (.drwVxVyN 1 2 0xF) ∧
  decodeWord 0xA30E = .instr (.ldINnn 0x30E) ∧ decodeWord 0xE49E = .instr (.skpVx 4) ∧
  decodeWord 0x0000 = .instr (.sys 0x000)

/-! ### Reset (10_state.md R27, 70_reset_and_hazards.md R230) -/

/-- R230: the power-on state, every item of R27's table (the model's own two fields for the random source are not among them). -/
def Obligations.ResetStateValues : Prop :=
  (∀ r, State.reset.getV r = 0) ∧ State.reset.pc = 0x0200 ∧ State.reset.regI = 0 ∧ State.reset.sp = 0 ∧
  (∀ k : Fin 30, State.reset.stack[k.val] = 0) ∧ State.reset.dt = 0 ∧ State.reset.st = 0 ∧
  (∀ k, State.reset.pixel k = false) ∧ (∀ k, State.reset.keyAt k = false) ∧
  (∀ a : Fin 80, State.reset.readMem a.val = Config.font.getD a.val 0) ∧
  (∀ a, 80 ≤ a → State.reset.readMem a = 0) ∧
  State.reset.err = .none ∧ State.reset.errInfo = .none

/-- The power-on state meets the invariant. -/
def Obligations.ResetMeetsInvariant : Prop := State.reset.Inv

/-! ### The Step cycle (40_control_transfer.md R100, 60_exceptions.md) -/

/-- R43: the fetched word is `MEM[PC] * 256 + MEM[PC + 1]`, the byte at the lower address its high byte, at any parity of PC. -/
def Obligations.FetchIsBigEndian : Prop :=
  ∀ s : State, s.fetchWord.toNat = (s.readMem s.pc.toNat).toNat * 256 + (s.readMem (s.pc.toNat + 1)).toNat ∧
    hiByte s.fetchWord = s.readMem s.pc.toNat ∧ loByte s.fetchWord = s.readMem (s.pc.toNat + 1)

/-- R100: with no fault latched and PC not at the last byte, a Step is the execution of the instruction the two bytes at PC decode
to, on the state as it stands; nothing else happens around it (the PC is committed by the meaning, R100 step 6). -/
def Obligations.StepRunsDecodedInstruction : Prop :=
  ∀ (s : State) (i : Instr), s.err = .none → s.pc ≠ 0xFFFF →
    (decode [s.readMem s.pc.toNat, s.readMem (s.pc.toNat + 1)]).1 = .instr i → step s = exec i s

/-- R100 step 2: a Step at PC = 0xFFFF raises OutOfBounds(PC) and changes nothing else. -/
def Obligations.FetchAtTopFaults : Prop :=
  ∀ s : State, s.err = .none → s.pc = 0xFFFF → FaultsWith .outOfBounds s (step s)

/-- R204: a SYS word or a word that matches no row raises IllegalInstruction, with the PC and the word recorded. -/
def Obligations.FaultingWordRaisesIllegal : Prop :=
  ∀ s : State, s.err = .none → s.pc ≠ 0xFFFF → isFaultingWord s.fetchWord = true →
    step s = .next { s with err := .illegalInstruction, errInfo := .pcOp s.pc s.fetchWord }

/-- R206: while a fault is latched a Step changes nothing; every operation other than Step and Reset works as if no fault were
latched and leaves the latch as it stands; Reset clears it. -/
def Obligations.LatchIsSticky : Prop :=
  ∀ s : State, s.err ≠ .none →
    step s = .next s ∧
    (∀ o : HostOp, o ≠ .step → o ≠ .reset → ∃ t, operate o s = .next t ∧ t.err = s.err ∧ t.errInfo = s.errInfo ∧
      operate o { s with err := .none, errInfo := .none } = .next { t with err := .none, errInfo := .none }) ∧
    (∃ t, operate .reset s = .next t ∧ t.err = .none)

/-- From every legal state a Step answers a next state, and that state is legal: memory canonical, SP within 0..30, the latch
consistent (R17, R200, R202). The model's own stop is never reached. -/
def Obligations.StepKeepsInvariant : Prop :=
  ∀ s : State, s.Inv → ∃ t, step s = .next t ∧ t.Inv

/-- From every legal state any sequence of host operations, in any order, answers a state, and that state is legal (R222, R228). -/
def Obligations.HostOperationsKeepInvariant : Prop :=
  ∀ (os : List HostOp) (s : State), s.Inv → ∃ t, operateAll os s = .next t ∧ t.Inv

/-- R205, R207: a Step that latches a fault changes ERR and ERR_INFO and nothing else, and the information is the PC at the start of
the Step, with the fetched word for IllegalInstruction. -/
def Obligations.FaultingStepIsPrecise : Prop :=
  ∀ s t : State, s.err = .none → step s = .next t → t.err ≠ .none →
    t = { s with err := t.err, errInfo := t.errInfo } ∧
    t.errInfo = (if t.err = .illegalInstruction then .pcOp s.pc s.fetchWord else .pc s.pc)

/-- R200: which Steps fault, and with what: the closed list of faults with their conditions, recorded information and codes. -/
def Obligations.FaultsAreExactlyListed : Prop :=
  (∀ s t : State, s.err = .none → step s = .next t →
    (t.err = .outOfBounds ↔ s.pc = 0xFFFF ∨
      (∃ x y n, decodeWord s.fetchWord = .instr (.drwVxVyN x y n) ∧ n.toNat ≥ 1 ∧ s.regI.toNat + n.toNat - 1 > 0xFFFF) ∨
      (∃ x, decodeWord s.fetchWord = .instr (.ldBVx x) ∧ s.regI.toNat + 2 > 0xFFFF) ∨
      (∃ x, decodeWord s.fetchWord = .instr (.ldMemVx x) ∧ s.regI.toNat + x.val > 0xFFFF) ∨
      (∃ x, decodeWord s.fetchWord = .instr (.ldVxMem x) ∧ s.regI.toNat + x.val > 0xFFFF)) ∧
    (t.err = .stackOverflow ↔ s.pc ≠ 0xFFFF ∧ (∃ nnn, decodeWord s.fetchWord = .instr (.call nnn)) ∧ s.sp = 30) ∧
    (t.err = .stackUnderflow ↔ s.pc ≠ 0xFFFF ∧ decodeWord s.fetchWord = .instr .ret ∧ s.sp = 0) ∧
    (t.err = .illegalInstruction ↔ s.pc ≠ 0xFFFF ∧
      ((∃ nnn, decodeWord s.fetchWord = .instr (.sys nnn)) ∨ ∃ r, decodeWord s.fetchWord = .rejected r)) ∧
    (t.err = .illegalInstruction → t.errInfo = .pcOp s.pc s.fetchWord) ∧
    (t.err ≠ .none → t.err ≠ .illegalInstruction → t.errInfo = .pc s.pc)) ∧
  Err.code .none = 0 ∧ Err.code .outOfBounds = 1 ∧ Err.code .stackOverflow = 2 ∧ Err.code .stackUnderflow = 3 ∧
  Err.code .illegalInstruction = 4

/-! ### Whole-machine rules -/

/-- Only the instructions their rules name write I (R16), SP and the stack (R17, R21), the timers (R18, R19), the framebuffer (R22),
memory (R42), the random source (R25); no instruction writes a key flag (R23). -/
def Obligations.SpecialStateWriters : Prop :=
  ∀ (i : Instr) (s t : State), exec i s = .next t →
    t.key = s.key ∧
    (t.regI ≠ s.regI → (∃ nnn, i = .ldINnn nnn) ∨ (∃ x, i = .addIVx x) ∨ ∃ x, i = .ldFVx x) ∧
    (t.sp ≠ s.sp → i = .ret ∨ ∃ nnn, i = .call nnn) ∧
    (t.stack ≠ s.stack → ∃ nnn, i = .call nnn) ∧
    (t.dt ≠ s.dt → ∃ x, i = .ldDtVx x) ∧
    (t.st ≠ s.st → ∃ x, i = .ldStVx x) ∧
    (t.fb ≠ s.fb → i = .cls ∨ ∃ x y n, i = .drwVxVyN x y n) ∧
    (t.mem ≠ s.mem → (∃ x, i = .ldBVx x) ∨ ∃ x, i = .ldMemVx x) ∧
    (t.rndDraws ≠ s.rndDraws ∨ t.rndSupply ≠ s.rndSupply → ∃ x nn, i = .rndVxNn x nn)

/-- R12, last column: an instruction changes a general register only if the table names it as written (and so VF as a flag only in
ADD, SUB, SHR, SUBN, SHL and DRW). -/
def Obligations.RegisterWriters : Prop :=
  ∀ (i : Instr) (s t : State) (r : RegIx), exec i s = .next t → t.getV r ≠ s.getV r → writesRegister i r = true

/-- An instruction's word placed at PC in a legal state is what the next Step runs, and placing it changes only those two bytes
(the model's convention for the host, log 9; the fetch is R43 and R100). -/
def Obligations.PlacedWordIsRun : Prop :=
  ∀ (s : State) (w : Word) (i : Instr), s.Inv → s.err = .none → s.pc ≠ 0xFFFF → decodeWord w = .instr i →
    step (s.withFetchWord 16 w.toNat) = exec i (s.withFetchWord 16 w.toNat) ∧
    OnlyChanges (fun p => p = .mem s.pc.toNat ∨ p = .mem (s.pc.toNat + 1)) s (s.withFetchWord 16 w.toNat)

/-- R52: the bytes LD [I],Vx stores are the bytes the very next fetch reads, also when they are the next instruction. -/
def Obligations.StoreSeenByNextFetch : Prop :=
  ∀ (x k j : RegIx) (s t : State), Memory.wf s.mem = true → s.regI.toNat + x.val ≤ 0xFFFF → k.val + 1 = j.val → j ≤ x →
    s.regI.toNat + k.val = (s.pc.toNat + 2) % 65536 → exec (.ldMemVx x) s = .next t →
    t.fetchWord = wordOfBytes (s.getV k) (s.getV j)

/-- R227: in a parked state (a JP to its own address at PC, no fault latched) a Step leaves the entire state unchanged. -/
def Obligations.ParkedStepChangesNothing : Prop :=
  ∀ s : State, s.err = .none → s.Parked → step s = .next s

/-! ### Control transfer (40_control_transfer.md) -/

/-- R101: SYS always raises IllegalInstruction with the PC and its word 0nnn; nothing else changes. -/
def Obligations.SysRaisesIllegalInstruction : Prop :=
  ∀ (nnn : Addr12) (s : State),
    exec (.sys nnn) s = .next { s with err := .illegalInstruction, errInfo := .pcOp s.pc (encode (.sys nnn)) } ∧
    (encode (.sys nnn)).toNat = nnn.toNat

/-- R102: RET with SP = 0 raises StackUnderflow; otherwise SP goes down by one and PC becomes the entry at the new SP, which is not
erased. -/
def Obligations.RetPopsReturnAddress : Prop :=
  ∀ s : State,
    (s.sp = 0 → FaultsWith .stackUnderflow s (exec .ret s)) ∧
    (∀ k : Fin 30, s.sp.toNat = k.val + 1 →
      ∃ t, exec .ret s = .next t ∧ t.sp.toNat = k.val ∧ t.pc = s.stack[k.val] ∧
        OnlyChanges (fun p => p = .pc ∨ p = .sp) s t)

/-- R103: JP sets PC to nnn and changes nothing else. -/
def Obligations.JpSetsPc : Prop :=
  ∀ (nnn : Addr12) (s : State), ∃ t, exec (.jp nnn) s = .next t ∧ t.pc.toNat = nnn.toNat ∧ OnlyChanges (· = .pc) s t

/-- R104: CALL with SP = 30 raises StackOverflow; otherwise the address after the CALL goes to STACK[SP], SP goes up by one and PC
becomes nnn. -/
def Obligations.CallPushesReturnAddress : Prop :=
  ∀ (nnn : Addr12) (s : State),
    (s.sp = 30 → FaultsWith .stackOverflow s (exec (.call nnn) s)) ∧
    (∀ k : Fin 30, s.sp.toNat = k.val →
      ∃ t, exec (.call nnn) s = .next t ∧ (t.stack[k.val]).toNat = (s.pc.toNat + 2) % 65536 ∧ t.sp.toNat = k.val + 1 ∧
        t.pc.toNat = nnn.toNat ∧ OnlyChanges (fun p => p = .pc ∨ p = .sp ∨ p = .stack k) s t)

/-- R105, R106: SE Vx,nn skips if V[x] = nn, SNE Vx,nn if not; a taken skip moves PC by 4, otherwise by 2, modulo 2^16. -/
def Obligations.SkipOnImmediate : Prop :=
  ∀ (x : RegIx) (nn : Byte) (s : State),
    (∃ t, exec (.seVxNn x nn) s = .next t ∧ AdvancesBy (if s.getV x = nn then 4 else 2) s t ∧ OnlyChanges (· = .pc) s t) ∧
    (∃ t, exec (.sneVxNn x nn) s = .next t ∧ AdvancesBy (if s.getV x ≠ nn then 4 else 2) s t ∧ OnlyChanges (· = .pc) s t)

/-- R107, R108: SE Vx,Vy skips if V[x] = V[y], SNE Vx,Vy if not. -/
def Obligations.SkipOnRegister : Prop :=
  ∀ (x y : RegIx) (s : State),
    (∃ t, exec (.seVxVy x y) s = .next t ∧ AdvancesBy (if s.getV x = s.getV y then 4 else 2) s t ∧ OnlyChanges (· = .pc) s t) ∧
    (∃ t, exec (.sneVxVy x y) s = .next t ∧ AdvancesBy (if s.getV x ≠ s.getV y then 4 else 2) s t ∧ OnlyChanges (· = .pc) s t)

/-- R109: JP V0,nnn sets PC to nnn + V0, not reduced to 12 bits (at most 0x10FE). -/
def Obligations.JpV0AddsOffset : Prop :=
  ∀ (nnn : Addr12) (s : State), ∃ t, exec (.jpV0Nnn nnn) s = .next t ∧
    t.pc.toNat = nnn.toNat + (s.getV 0).toNat ∧ t.pc.toNat ≤ 0x10FE ∧ OnlyChanges (· = .pc) s t

/-- R111 (the spec's own inference from R102 and R104): N nested CALLs and N RETs come back to the instruction after the outermost
CALL with SP as at the start; one CALL more than the stack holds raises StackOverflow with SP = 30. -/
def Obligations.NestedCallsReturn : Prop :=
  ∀ (targets : List Addr12) (s : State),
    (targets ≠ [] → s.sp.toNat + targets.length ≤ 30 →
      ∃ t, execAll (targets.map .call ++ List.replicate targets.length .ret) s = .next t ∧ AdvancesBy 2 s t ∧ t.sp = s.sp ∧
        OnlyChanges (fun p => p = .pc ∨ ∃ k : Fin 30, s.sp.toNat ≤ k.val ∧ p = .stack k) s t) ∧
    (targets ≠ [] → s.sp.toNat + targets.length = 31 →
      ∃ t, execAll (targets.map .call) s = .next t ∧ t.err = .stackOverflow ∧ t.sp = 30)

/-! ### Register ALU (41_alu.md) -/

/-- R120: LD Vx,nn. -/
def Obligations.LdImmediate : Prop :=
  ∀ (x : RegIx) (nn : Byte) (s : State), ∃ t, exec (.ldVxNn x nn) s = .next t ∧ t.getV x = nn ∧ AdvancesBy 2 s t ∧
    OnlyChanges (fun p => p = .pc ∨ p = .v x) s t

/-- R121: ADD Vx,nn wraps modulo 256 and touches no flag (VF keeps its value unless x = 15). -/
def Obligations.AddImmediateWraps : Prop :=
  ∀ (x : RegIx) (nn : Byte) (s : State), ∃ t, exec (.addVxNn x nn) s = .next t ∧
    (t.getV x).toNat = ((s.getV x).toNat + nn.toNat) % 256 ∧ AdvancesBy 2 s t ∧
    OnlyChanges (fun p => p = .pc ∨ p = .v x) s t

/-- R122: LD Vx,Vy. -/
def Obligations.LdRegister : Prop :=
  ∀ (x y : RegIx) (s : State), ∃ t, exec (.ldVxVy x y) s = .next t ∧ t.getV x = s.getV y ∧ AdvancesBy 2 s t ∧
    OnlyChanges (fun p => p = .pc ∨ p = .v x) s t

/-- R123, R124, R125: OR, AND and XOR, bit by bit; VF is untouched (unless x = 15). -/
def Obligations.LogicBitwise : Prop :=
  ∀ (x y : RegIx) (s : State),
    (∃ t, exec (.orVxVy x y) s = .next t ∧ AdvancesBy 2 s t ∧ OnlyChanges (fun p => p = .pc ∨ p = .v x) s t ∧
      ∀ j, (t.getV x).getLsbD j = ((s.getV x).getLsbD j || (s.getV y).getLsbD j)) ∧
    (∃ t, exec (.andVxVy x y) s = .next t ∧ AdvancesBy 2 s t ∧ OnlyChanges (fun p => p = .pc ∨ p = .v x) s t ∧
      ∀ j, (t.getV x).getLsbD j = ((s.getV x).getLsbD j && (s.getV y).getLsbD j)) ∧
    (∃ t, exec (.xorVxVy x y) s = .next t ∧ AdvancesBy 2 s t ∧ OnlyChanges (fun p => p = .pc ∨ p = .v x) s t ∧
      ∀ j, (t.getV x).getLsbD j = ((s.getV x).getLsbD j ^^ (s.getV y).getLsbD j))

/-- R126: ADD Vx,Vy: the sum modulo 256, and VF = 1 exactly when the sum is above 255; with x = 15 VF holds the flag. -/
def Obligations.AddSetsCarry : Prop :=
  ∀ (x y : RegIx) (s : State), ∃ t, exec (.addVxVy x y) s = .next t ∧
    (x ≠ vf → (t.getV x).toNat = ((s.getV x).toNat + (s.getV y).toNat) % 256) ∧
    (t.getV vf).toNat = (if (s.getV x).toNat + (s.getV y).toNat > 255 then 1 else 0) ∧ AdvancesBy 2 s t ∧
    OnlyChanges (fun p => p = .pc ∨ p = .v x ∨ p = .v vf) s t

/-- R127: SUB Vx,Vy: the difference modulo 256, and VF = 1 exactly when V[x] > V[y], strictly. -/
def Obligations.SubSetsStrictGreater : Prop :=
  ∀ (x y : RegIx) (s : State), ∃ t, exec (.subVxVy x y) s = .next t ∧
    (x ≠ vf → ((t.getV x).toNat : Int) = ((s.getV x).toNat - (s.getV y).toNat : Int) % 256) ∧
    (t.getV vf).toNat = (if (s.getV x).toNat > (s.getV y).toNat then 1 else 0) ∧ AdvancesBy 2 s t ∧
    OnlyChanges (fun p => p = .pc ∨ p = .v x ∨ p = .v vf) s t

/-- R128: SHR Vx: V[x] div 2, and VF = the old bit 0; y is ignored. -/
def Obligations.ShrShiftsOutBitZero : Prop :=
  ∀ (x y : RegIx) (s : State), ∃ t, exec (.shrVx x y) s = .next t ∧
    (x ≠ vf → (t.getV x).toNat = (s.getV x).toNat / 2) ∧ (t.getV vf).toNat = (s.getV x).toNat % 2 ∧ AdvancesBy 2 s t ∧
    OnlyChanges (fun p => p = .pc ∨ p = .v x ∨ p = .v vf) s t

/-- R129: SUBN Vx,Vy: V[y] - V[x] modulo 256, and VF = 1 exactly when V[y] > V[x], strictly. -/
def Obligations.SubnSetsStrictGreater : Prop :=
  ∀ (x y : RegIx) (s : State), ∃ t, exec (.subnVxVy x y) s = .next t ∧
    (x ≠ vf → ((t.getV x).toNat : Int) = ((s.getV y).toNat - (s.getV x).toNat : Int) % 256) ∧
    (t.getV vf).toNat = (if (s.getV y).toNat > (s.getV x).toNat then 1 else 0) ∧ AdvancesBy 2 s t ∧
    OnlyChanges (fun p => p = .pc ∨ p = .v x ∨ p = .v vf) s t

/-- R130: SHL Vx: 2 * V[x] modulo 256, and VF = the old bit 7; y is ignored. -/
def Obligations.ShlShiftsOutBitSeven : Prop :=
  ∀ (x y : RegIx) (s : State), ∃ t, exec (.shlVx x y) s = .next t ∧
    (x ≠ vf → (t.getV x).toNat = 2 * (s.getV x).toNat % 256) ∧ (t.getV vf).toNat = (s.getV x).toNat / 128 ∧ AdvancesBy 2 s t ∧
    OnlyChanges (fun p => p = .pc ∨ p = .v x ∨ p = .v vf) s t

/-- R131: RND Vx,nn consumes exactly one byte of the random source and writes that byte AND nn, a submask of nn. -/
def Obligations.RndMasksOneByte : Prop :=
  ∀ (x : RegIx) (nn : Byte) (s : State), ∃ t, exec (.rndVxNn x nn) s = .next t ∧
    t.getV x = s.randomByte &&& nn ∧ t.rndSupply = s.rndSupply.tail ∧ t.rndDraws = s.rndDraws + 1 ∧
    t.getV x &&& ~~~nn = 0 ∧ AdvancesBy 2 s t ∧
    OnlyChanges (fun p => p = .pc ∨ p = .v x ∨ p = .rndSupply ∨ p = .rndDraws) s t

/-- The model's form of the external random source (log 1): the host's bytes are delivered in the order it supplied them, after those
already waiting; where none is waiting the byte is the free value of that draw, whatever it is. -/
def Obligations.RandomSourceDeliversSupply : Prop :=
  ∀ (s : State) (b : Byte),
    (∃ t, operate (.supplyRandom b) s = .next t ∧ t.rndSupply = s.rndSupply ++ [b] ∧ OnlyChanges (· = .rndSupply) s t ∧
      ∀ n, n = s.rndSupply.length → (State.consumeRandom^[n] t).randomByte = b) ∧
    (s.rndSupply = [] → s.randomByte = Config.randomByte s.rndDraws)

/-! ### Index register and memory (42_index_and_memory.md) -/

/-- R150: LD I,nnn zero-extends. -/
def Obligations.LdIndexImmediate : Prop :=
  ∀ (nnn : Addr12) (s : State), ∃ t, exec (.ldINnn nnn) s = .next t ∧ t.regI.toNat = nnn.toNat ∧ AdvancesBy 2 s t ∧
    OnlyChanges (fun p => p = .pc ∨ p = .regI) s t

/-- R151: ADD I,Vx wraps modulo 2^16 and touches no flag. -/
def Obligations.AddIndexWraps : Prop :=
  ∀ (x : RegIx) (s : State), ∃ t, exec (.addIVx x) s = .next t ∧
    t.regI.toNat = (s.regI.toNat + (s.getV x).toNat) % 65536 ∧ AdvancesBy 2 s t ∧
    OnlyChanges (fun p => p = .pc ∨ p = .regI) s t

/-- R152: LD F,Vx sets I to 5 times the whole byte V[x]. -/
def Obligations.LdFontAddress : Prop :=
  ∀ (x : RegIx) (s : State), ∃ t, exec (.ldFVx x) s = .next t ∧ t.regI.toNat = (s.getV x).toNat * 5 ∧ AdvancesBy 2 s t ∧
    OnlyChanges (fun p => p = .pc ∨ p = .regI) s t

/-- R153: LD B,Vx stores the hundreds, tens and ones digits of V[x] at I, I + 1, I + 2, or raises OutOfBounds. -/
def Obligations.LdBcdStoresDigits : Prop :=
  ∀ (x : RegIx) (s : State),
    (s.regI.toNat + 2 > 0xFFFF → FaultsWith .outOfBounds s (exec (.ldBVx x) s)) ∧
    (s.regI.toNat + 2 ≤ 0xFFFF → ∃ t, exec (.ldBVx x) s = .next t ∧ AdvancesBy 2 s t ∧
      OnlyChanges (fun p => p = .pc ∨ p = .mem s.regI.toNat ∨ p = .mem (s.regI.toNat + 1) ∨ p = .mem (s.regI.toNat + 2)) s t ∧
      (Memory.wf s.mem = true →
        (t.readMem s.regI.toNat).toNat = (s.getV x).toNat / 100 ∧
        (t.readMem (s.regI.toNat + 1)).toNat = (s.getV x).toNat / 10 % 10 ∧
        (t.readMem (s.regI.toNat + 2)).toNat = (s.getV x).toNat % 10))

/-- R154: LD [I],Vx stores V0 to V[x] at I to I + x, I unchanged, or raises OutOfBounds. -/
def Obligations.LdStoresRegisters : Prop :=
  ∀ (x : RegIx) (s : State),
    (s.regI.toNat + x.val > 0xFFFF → FaultsWith .outOfBounds s (exec (.ldMemVx x) s)) ∧
    (s.regI.toNat + x.val ≤ 0xFFFF → ∃ t, exec (.ldMemVx x) s = .next t ∧ AdvancesBy 2 s t ∧
      OnlyChanges (fun p => p = .pc ∨ ∃ k ≤ x, p = .mem (s.regI.toNat + k.val)) s t ∧
      (Memory.wf s.mem = true → ∀ k ≤ x, t.readMem (s.regI.toNat + k.val) = s.getV k))

/-- R155: LD Vx,[I] loads V0 to V[x] from I to I + x, I unchanged, or raises OutOfBounds. -/
def Obligations.LdLoadsRegisters : Prop :=
  ∀ (x : RegIx) (s : State),
    (s.regI.toNat + x.val > 0xFFFF → FaultsWith .outOfBounds s (exec (.ldVxMem x) s)) ∧
    (s.regI.toNat + x.val ≤ 0xFFFF → ∃ t, exec (.ldVxMem x) s = .next t ∧ AdvancesBy 2 s t ∧
      (∀ k ≤ x, t.getV k = s.readMem (s.regI.toNat + k.val)) ∧
      OnlyChanges (fun p => p = .pc ∨ ∃ k ≤ x, p = .v k) s t)

/-! ### Display (43_display.md) -/

/-- R170: CLS sets all 2048 cells to 0. -/
def Obligations.ClsClearsFramebuffer : Prop :=
  ∀ s : State, ∃ t, exec .cls s = .next t ∧ (∀ k, t.pixel k = false) ∧ AdvancesBy 2 s t ∧
    OnlyChanges (fun p => p = .pc ∨ ∃ k, p = .pixel k) s t

/-- R171: DRW XORs exactly the cells its set sprite bits land on, with toroidal wrap, and VF = 1 exactly when one of them was lit;
out of range it raises OutOfBounds; with n = 0 it draws nothing and sets VF to 0. -/
def Obligations.DrwXorsSprite : Prop :=
  ∀ (x y : RegIx) (n : Nibble) (s : State),
    (n.toNat ≥ 1 → s.regI.toNat + n.toNat - 1 > 0xFFFF → FaultsWith .outOfBounds s (exec (.drwVxVyN x y n) s)) ∧
    (n = 0 ∨ s.regI.toNat + n.toNat - 1 ≤ 0xFFFF → ∃ t, exec (.drwVxVyN x y n) s = .next t ∧ AdvancesBy 2 s t ∧
      (∀ k, SpriteCovers s (s.getV x) (s.getV y) n k → t.pixel k = !s.pixel k) ∧
      ((∃ k, SpriteCovers s (s.getV x) (s.getV y) n k ∧ s.pixel k = true) → t.getV vf = 1) ∧
      ((¬ ∃ k, SpriteCovers s (s.getV x) (s.getV y) n k ∧ s.pixel k = true) → t.getV vf = 0) ∧
      OnlyChanges (fun p => p = .pc ∨ p = .v vf ∨ ∃ k, p = .pixel k ∧ SpriteCovers s (s.getV x) (s.getV y) n k) s t)

/-- R172 (1) (the spec's own inference from R171): DRW always answers, and the same DRW again at the same location restores the
framebuffer. -/
def Obligations.DrawTwiceRestores : Prop :=
  ∀ (x y : RegIx) (n : Nibble) (s : State), ∃ t, exec (.drwVxVyN x y n) s = .next t ∧
    (t.getV x = s.getV x → t.getV y = s.getV y →
      ∃ u, exec (.drwVxVyN x y n) t = .next u ∧ ∀ k, u.pixel k = s.pixel k)

/-! ### Timers and keys (44_timers_and_keys.md) -/

/-- R180: LD Vx,DT. -/
def Obligations.LdReadsDelayTimer : Prop :=
  ∀ (x : RegIx) (s : State), ∃ t, exec (.ldVxDt x) s = .next t ∧ t.getV x = s.dt ∧ AdvancesBy 2 s t ∧
    OnlyChanges (fun p => p = .pc ∨ p = .v x) s t

/-- R181, R182: LD DT,Vx and LD ST,Vx. -/
def Obligations.LdWritesTimers : Prop :=
  ∀ (x : RegIx) (s : State),
    (∃ t, exec (.ldDtVx x) s = .next t ∧ t.dt = s.getV x ∧ AdvancesBy 2 s t ∧
      OnlyChanges (fun p => p = .pc ∨ p = .dt) s t) ∧
    (∃ t, exec (.ldStVx x) s = .next t ∧ t.st = s.getV x ∧ AdvancesBy 2 s t ∧
      OnlyChanges (fun p => p = .pc ∨ p = .st) s t)

/-- R183: LD Vx,K with a key down stores the lowest-numbered one and goes on; with none down the whole state stays (block mode, this
hardware's); in the alternative mode it would only advance. -/
def Obligations.LdWaitsForKey : Prop :=
  ∀ (x : RegIx) (s : State),
    (∀ k, s.keyAt k = true → (∀ j < k, s.keyAt j = false) →
      ∃ t, exec (.ldVxK x) s = .next t ∧ (t.getV x).toNat = k.val ∧ AdvancesBy 2 s t ∧
        OnlyChanges (fun p => p = .pc ∨ p = .v x) s t) ∧
    ((∀ k, s.keyAt k = false) → exec (.ldVxK x) s = .next s) ∧
    (∃ t, waitForKey .noop x s = .next t ∧ AdvancesBy 2 s t ∧ OnlyChanges (· = .pc) s t)

/-- R184, R185: SKP skips if the key named by V[x][3:0] is down, SKNP if it is not. -/
def Obligations.SkipOnKey : Prop :=
  ∀ (x k : RegIx) (s : State), k.val = (s.getV x).toNat % 16 →
    (∃ t, exec (.skpVx x) s = .next t ∧ AdvancesBy (if s.keyAt k = true then 4 else 2) s t ∧ OnlyChanges (· = .pc) s t) ∧
    (∃ t, exec (.sknpVx x) s = .next t ∧ AdvancesBy (if s.keyAt k = false then 4 else 2) s t ∧ OnlyChanges (· = .pc) s t)

/-! ### Host operations (60_exceptions.md, 20_memory.md R50, 70_reset_and_hazards.md R231) -/

/-- R214: Tick decrements each timer that is not 0 and changes nothing else, in every state, a latched fault or not. -/
def Obligations.TickCountsDown : Prop :=
  ∀ s : State, ∃ t, operate .tick s = .next t ∧ t.dt.toNat = s.dt.toNat - 1 ∧ t.st.toNat = s.st.toNat - 1 ∧
    OnlyChanges (fun p => p = .dt ∨ p = .st) s t

/-- R217, R218: KeyWrite sets one key flag and nothing else; FbRead returns the 2048 cells in index order and changes nothing. -/
def Obligations.KeyWriteAndFbRead : Prop :=
  (∀ (k : RegIx) (b : Bool) (s : State), ∃ t, operate (.keyWrite k b) s = .next t ∧ t.keyAt k = b ∧
    OnlyChanges (· = .key k) s t) ∧
  (∀ s : State, operate .fbRead s = .next s ∧
    ∃ cells : List Bool, reply .fbRead s = .frame cells ∧ cells.length = 2048 ∧ ∀ k : Fin 2048, cells[k.val]? = some (s.pixel k))

/-- R50: Load copies an image of at most 65024 bytes to 0x200 on and changes nothing else; a longer one is refused as a whole. -/
def Obligations.LoadCopiesImage : Prop :=
  ∀ (image : List Byte) (s : State),
    (image.length ≤ 65024 → reply (.load image) s = .done ∧ ∃ t, operate (.load image) s = .next t ∧
      OnlyChanges (fun p => ∃ k < image.length, p = .mem (0x200 + k)) s t ∧
      (Memory.wf s.mem = true → ∀ k (hk : k < image.length), t.readMem (0x200 + k) = image[k])) ∧
    (image.length > 65024 → reply (.load image) s = .loadRefused .outOfBounds ∧ operate (.load image) s = .next s)

/-- R231: the Reset operation gives the power-on state in everything but the stack entries (which the spec leaves unspecified; log
10) and the random source, which it does not touch. -/
def Obligations.ResetRestoresPowerOn : Prop :=
  ∀ s : State, ∃ t, operate .reset s = .next t ∧
    OnlyChanges (fun p => (∃ k, p = .stack k) ∨ p = .rndSupply ∨ p = .rndDraws) State.reset t ∧
    t.rndSupply = s.rndSupply ∧ t.rndDraws = s.rndDraws

/-! ### The model's own stop -/

/-- The model's choice (log 5), no rule of the spec: with SP = 31, which no legal state holds (R17), CALL and RET stop by name. -/
def Obligations.StackIndexStops : Prop :=
  ∀ (nnn : Addr12) (s : State), 30 < s.sp.toNat →
    exec (.call nnn) s = .fault .stackIndex ∧ exec .ret s = .fault .stackIndex
end

