-- ==== Sys2Proof/Laws/Decode.lean ====
section
/-!
SUPPORT. The fields of each word layout (spec/30_encoding.md R61, R62), and a word as its four nibbles.
-/

namespace Sys2Proof

@[simp] theorem regOfNibble_nibbleOfReg (r : RegIx) : regOfNibble (nibbleOfReg r) = r := by
  apply Fin.ext
  simp [regOfNibble, nibbleOfReg]

@[simp] theorem nibbleOfReg_regOfNibble (b : Nibble) : nibbleOfReg (regOfNibble b) = b := by
  simp [regOfNibble, nibbleOfReg]

/-- A field of an appended word that lies in the low part. -/
theorem extractLsb'_append_low {m k : Nat} (a : BitVec m) (b : BitVec k) (start len : Nat) (h : start + len ≤ k) :
    (a ++ b).extractLsb' start len = b.extractLsb' start len := by
  apply BitVec.eq_of_getLsbD_eq
  intro i hi
  rw [BitVec.getLsbD_extractLsb', BitVec.getLsbD_extractLsb', BitVec.getLsbD_append, if_pos (by omega)]

/-- A field of an appended word that lies in the high part. -/
theorem extractLsb'_append_high {m k : Nat} (a : BitVec m) (b : BitVec k) (start len : Nat) (h : k ≤ start) :
    (a ++ b).extractLsb' start len = a.extractLsb' (start - k) len := by
  apply BitVec.eq_of_getLsbD_eq
  intro i hi
  rw [BitVec.getLsbD_extractLsb', BitVec.getLsbD_extractLsb', BitVec.getLsbD_append, if_neg (by omega),
    Nat.sub_add_comm h]

/-- The whole of a bit vector as a field of itself. -/
theorem extractLsb'_whole {k : Nat} (b : BitVec k) : b.extractLsb' 0 k = b := by simp

/-! ### The fields of the layouts -/

@[simp] theorem fieldP_wordNNN (p : Nibble) (nnn : Addr12) : fieldP (wordNNN p nnn) = p :=
  (extractLsb'_append_high p nnn 12 4 (by omega)).trans (extractLsb'_whole p)

@[simp] theorem fieldNNN_wordNNN (p : Nibble) (nnn : Addr12) : fieldNNN (wordNNN p nnn) = nnn :=
  (extractLsb'_append_low p nnn 0 12 (by omega)).trans (extractLsb'_whole nnn)

@[simp] theorem fieldP_wordXNN (p : Nibble) (x : RegIx) (nn : Byte) : fieldP (wordXNN p x nn) = p :=
  (extractLsb'_append_high (p ++ nibbleOfReg x) nn 12 4 (by omega)).trans
    ((extractLsb'_append_high p (nibbleOfReg x) 4 4 (by omega)).trans (extractLsb'_whole p))

@[simp] theorem fieldX_wordXNN (p : Nibble) (x : RegIx) (nn : Byte) : fieldX (wordXNN p x nn) = x := by
  have h : (wordXNN p x nn).extractLsb' 8 4 = nibbleOfReg x :=
    (extractLsb'_append_high (p ++ nibbleOfReg x) nn 8 4 (by omega)).trans
      ((extractLsb'_append_low p (nibbleOfReg x) 0 4 (by omega)).trans (extractLsb'_whole _))
  rw [fieldX, h, regOfNibble_nibbleOfReg]

@[simp] theorem fieldNN_wordXNN (p : Nibble) (x : RegIx) (nn : Byte) : fieldNN (wordXNN p x nn) = nn :=
  (extractLsb'_append_low (p ++ nibbleOfReg x) nn 0 8 (by omega)).trans (extractLsb'_whole nn)

@[simp] theorem fieldP_wordXYN (p : Nibble) (x y : RegIx) (n : Nibble) : fieldP (wordXYN p x y n) = p :=
  (extractLsb'_append_high (p ++ nibbleOfReg x ++ nibbleOfReg y) n 12 4 (by omega)).trans
    ((extractLsb'_append_high (p ++ nibbleOfReg x) (nibbleOfReg y) 8 4 (by omega)).trans
      ((extractLsb'_append_high p (nibbleOfReg x) 4 4 (by omega)).trans (extractLsb'_whole p)))

@[simp] theorem fieldX_wordXYN (p : Nibble) (x y : RegIx) (n : Nibble) : fieldX (wordXYN p x y n) = x := by
  have h : (wordXYN p x y n).extractLsb' 8 4 = nibbleOfReg x :=
    (extractLsb'_append_high (p ++ nibbleOfReg x ++ nibbleOfReg y) n 8 4 (by omega)).trans
      ((extractLsb'_append_high (p ++ nibbleOfReg x) (nibbleOfReg y) 4 4 (by omega)).trans
        ((extractLsb'_append_low p (nibbleOfReg x) 0 4 (by omega)).trans (extractLsb'_whole _)))
  rw [fieldX, h, regOfNibble_nibbleOfReg]

@[simp] theorem fieldY_wordXYN (p : Nibble) (x y : RegIx) (n : Nibble) : fieldY (wordXYN p x y n) = y := by
  have h : (wordXYN p x y n).extractLsb' 4 4 = nibbleOfReg y :=
    (extractLsb'_append_high (p ++ nibbleOfReg x ++ nibbleOfReg y) n 4 4 (by omega)).trans
      ((extractLsb'_append_low (p ++ nibbleOfReg x) (nibbleOfReg y) 0 4 (by omega)).trans (extractLsb'_whole _))
  rw [fieldY, h, regOfNibble_nibbleOfReg]

@[simp] theorem fieldN_wordXYN (p : Nibble) (x y : RegIx) (n : Nibble) : fieldN (wordXYN p x y n) = n :=
  (extractLsb'_append_low (p ++ nibbleOfReg x ++ nibbleOfReg y) n 0 4 (by omega)).trans (extractLsb'_whole n)

/-! ### A word from its fields -/

/-- A bit vector is its high part appended to its low part. -/
theorem append_extractLsb' {m k : Nat} (w : BitVec (m + k)) : w.extractLsb' k m ++ w.extractLsb' 0 k = w := by
  apply BitVec.eq_of_getLsbD_eq
  intro i hi
  rw [BitVec.getLsbD_append]
  split
  · simp [*]
  · rw [BitVec.getLsbD_extractLsb']
    have h1 : i - k < m := by omega
    have h2 : k + (i - k) = i := by omega
    simp [h1, h2]

/-- Two neighbouring fields appended are one field. -/
theorem extractLsb'_append_extractLsb' {n : Nat} (w : BitVec n) (start a b : Nat) :
    w.extractLsb' (start + b) a ++ w.extractLsb' start b = w.extractLsb' start (a + b) := by
  apply BitVec.eq_of_getLsbD_eq
  intro i hi
  rw [BitVec.getLsbD_append, BitVec.getLsbD_extractLsb', BitVec.getLsbD_extractLsb', BitVec.getLsbD_extractLsb']
  split
  · have h1 : i < a + b := by omega
    simp [*]
  · have h1 : i - b < a := by omega
    have h2 : start + b + (i - b) = start + i := by omega
    simp [h1, h2, hi]

theorem wordNNN_of_fields (w : Word) : wordNNN (fieldP w) (fieldNNN w) = w :=
  append_extractLsb' (m := 4) (k := 12) w

theorem wordXNN_of_fields (w : Word) : wordXNN (fieldP w) (fieldX w) (fieldNN w) = w := by
  unfold wordXNN fieldX
  rw [nibbleOfReg_regOfNibble]
  exact (congrArg (· ++ fieldNN w) (extractLsb'_append_extractLsb' w 8 4 4)).trans
    (append_extractLsb' (m := 8) (k := 8) w)

theorem wordXYN_of_fields (w : Word) : wordXYN (fieldP w) (fieldX w) (fieldY w) (fieldN w) = w := by
  unfold wordXYN fieldX fieldY
  rw [nibbleOfReg_regOfNibble, nibbleOfReg_regOfNibble]
  have h1 : fieldP w ++ w.extractLsb' 8 4 = w.extractLsb' 8 8 := extractLsb'_append_extractLsb' w 8 4 4
  have h2 : w.extractLsb' 8 8 ++ w.extractLsb' 4 4 = w.extractLsb' 4 12 := extractLsb'_append_extractLsb' w 4 8 4
  rw [h1, h2]
  exact append_extractLsb' (m := 12) (k := 4) w

/-- The two bytes of a word, high byte first, are the word again (R43). -/
@[simp] theorem wordOfBytes_hiByte_loByte (w : Word) : wordOfBytes (hiByte w) (loByte w) = w :=
  append_extractLsb' (m := 8) (k := 8) w

/-- Decoding the bytes of a word decodes the word. -/
theorem decode_bytesOfWord (w : Word) (rest : List Byte) :
    decode (bytesOfWord w ++ rest) = (decodeWord w, rest) := by
  simp [bytesOfWord, decode]

end Sys2Proof
end

