-- ==== Sys2Proof/Laws/Memory.lean ====
section
/-!
SUPPORT. Memory laws: a read after a write, what a write leaves alone, the canonical form every operation keeps, and that two
canonical memories with the same bytes are the same list (spec/20_memory.md R41, R45; log 6).
-/

namespace Sys2Proof.Machine

/-! ### The canonical form -/

theorem Memory.wfFrom_cons {lo k : Nat} {b : Byte} {m : Memory} :
    Memory.wfFrom lo ((k, b) :: m) = true ↔
      (lo ≤ k ∧ k < 65536 ∧ b ≠ Memory.blank k) ∧ Memory.wfFrom (k + 1) m = true := by
  rw [Memory.wfFrom, Bool.and_eq_true, decide_eq_true_iff, Config.memSize]

theorem Memory.wfFrom_mono {lo lo' : Nat} (h : lo' ≤ lo) : ∀ {m : Memory}, Memory.wfFrom lo m = true →
    Memory.wfFrom lo' m = true
  | [], _ => rfl
  | (_, _) :: _, hm => by
    rw [Memory.wfFrom_cons] at hm ⊢
    exact ⟨⟨h.trans hm.1.1, hm.1.2⟩, hm.2⟩

/-- Below the first possible entry a canonical memory reads as power-on contents. -/
theorem Memory.read_below {m : Memory} : ∀ {lo a : Nat}, Memory.wfFrom lo m = true → a < lo →
    Memory.read m a = Memory.blank a := by
  induction m with
  | nil => intros; rfl
  | cons e m ih =>
    obtain ⟨k, b⟩ := e
    intro lo a hm ha
    rw [Memory.wfFrom_cons] at hm
    have hk : a ≠ k := by omega
    simp only [Memory.read, hk, if_false]
    exact ih hm.2 (by omega)

/-- A write keeps the canonical form from any bound at or below its address. -/
theorem Memory.wfFrom_write {m : Memory} {a : Nat} (b : Byte) (ha : a < 65536) : ∀ {lo : Nat}, lo ≤ a →
    Memory.wfFrom lo m = true → Memory.wfFrom lo (Memory.write m a b) = true := by
  induction m with
  | nil =>
    intro lo hlo _
    simp only [Memory.write]
    split
    · rfl
    · exact Memory.wfFrom_cons.2 ⟨⟨hlo, ha, ‹_›⟩, rfl⟩
  | cons e m ih =>
    obtain ⟨k, c⟩ := e
    intro lo hlo hm
    have h := Memory.wfFrom_cons.1 hm
    simp only [Memory.write]
    split
    · split
      · exact hm
      · exact Memory.wfFrom_cons.2 ⟨⟨hlo, ha, ‹_›⟩, Memory.wfFrom_cons.2 ⟨⟨by omega, h.1.2⟩, h.2⟩⟩
    · split
      · subst_vars
        split
        · exact Memory.wfFrom_mono (by omega) h.2
        · exact Memory.wfFrom_cons.2 ⟨⟨hlo, ha, ‹_›⟩, h.2⟩
      · exact Memory.wfFrom_cons.2 ⟨h.1, ih (by omega) h.2⟩

/-- Every write inside the address space keeps the canonical form. -/
theorem Memory.wf_write {m : Memory} {a : Nat} (b : Byte) (ha : a < 65536) (hm : Memory.wf m = true) :
    Memory.wf (Memory.write m a b) = true :=
  Memory.wfFrom_write b ha (Nat.zero_le a) hm

/-- So does a write of consecutive bytes. -/
theorem Memory.wf_writeBytes {bs : List Byte} : ∀ {m : Memory} {base : Nat}, base + bs.length ≤ 65536 →
    Memory.wf m = true → Memory.wf (Memory.writeBytes m base bs) = true := by
  induction bs with
  | nil => intro _ _ _ hm; exact hm
  | cons b bs ih =>
    intro m base hb hm
    rw [List.length_cons] at hb
    exact ih (by omega) (Memory.wf_write b (by omega) hm)

/-! ### Read after write -/

/-- A write leaves every other byte alone, whatever the list. -/
theorem Memory.read_write_ne {m : Memory} {a c : Nat} (b : Byte) (h : c ≠ a) :
    Memory.read (Memory.write m a b) c = Memory.read m c := by
  induction m with
  | nil => simp only [Memory.write]; split <;> simp [Memory.read, h]
  | cons e m ih =>
    obtain ⟨k, d⟩ := e
    simp only [Memory.write]
    split
    · split <;> simp [Memory.read, h]
    · split
      · subst_vars
        split <;> simp [Memory.read, h]
      · simp only [Memory.read, ih]

theorem Memory.read_write_self_from {m : Memory} {a : Nat} (b : Byte) : ∀ {lo : Nat}, Memory.wfFrom lo m = true →
    Memory.read (Memory.write m a b) a = b := by
  induction m with
  | nil =>
    intro lo _
    simp only [Memory.write]
    split
    · simp_all [Memory.read]
    · simp [Memory.read]
  | cons e m ih =>
    obtain ⟨k, d⟩ := e
    intro lo hm
    have h := Memory.wfFrom_cons.1 hm
    simp only [Memory.write]
    split
    · split
      · rw [Memory.read_below (Memory.wfFrom_cons.2 ⟨⟨Nat.le_refl k, h.1.2⟩, h.2⟩) ‹_›]
        exact (‹b = _›).symm
      · simp [Memory.read]
    · split
      · subst_vars
        split
        · rw [Memory.read_below h.2 (by omega)]
          exact (‹b = _›).symm
        · simp [Memory.read]
      · simp only [Memory.read]
        rw [if_neg ‹_›]
        exact ih h.2

/-- A read after a write to the same byte of a canonical memory gives the byte written. -/
theorem Memory.read_write_self {m : Memory} {a : Nat} (b : Byte) (hm : Memory.wf m = true) :
    Memory.read (Memory.write m a b) a = b :=
  Memory.read_write_self_from b hm

/-- Outside its range a write of consecutive bytes leaves every byte alone, whatever the list. -/
theorem Memory.read_writeBytes_outside {bs : List Byte} : ∀ {m : Memory} {base c : Nat},
    c < base ∨ base + bs.length ≤ c → Memory.read (Memory.writeBytes m base bs) c = Memory.read m c := by
  induction bs with
  | nil => intros; rfl
  | cons b bs ih =>
    intro m base c h
    rw [List.length_cons] at h
    rw [Memory.writeBytes, ih (by omega), Memory.read_write_ne b (by omega)]

/-- Inside its range a write of consecutive bytes to a canonical memory gives the bytes written. -/
theorem Memory.read_writeBytes_inside {bs : List Byte} : ∀ {m : Memory} {base : Nat}, base + bs.length ≤ 65536 →
    Memory.wf m = true → ∀ (k : Nat) (hk : k < bs.length),
    Memory.read (Memory.writeBytes m base bs) (base + k) = bs[k] := by
  induction bs with
  | nil => intro _ _ _ _ k hk; exact absurd hk (Nat.not_lt_zero k)
  | cons b bs ih =>
    intro m base hb hm k hk
    rw [List.length_cons] at hb hk
    rw [Memory.writeBytes]
    cases k with
    | zero =>
      rw [Memory.read_writeBytes_outside (by omega)]
      simpa using Memory.read_write_self b hm
    | succ k =>
      have h := ih (m := Memory.write m base b) (base := base + 1) (by omega) (Memory.wf_write b (by omega) hm) k (by omega)
      rw [show base + (k + 1) = base + 1 + k by omega, h]
      rfl

/-! ### Reading several bytes -/

@[simp] theorem Memory.readBytes_length (m : Memory) (n : Nat) : ∀ base, (Memory.readBytes m base n).length = n := by
  induction n with
  | zero => intro; rfl
  | succ n ih => intro base; simp [Memory.readBytes, ih]

theorem Memory.readBytes_getElem (m : Memory) (n : Nat) : ∀ (base k : Nat) (hk : k < (Memory.readBytes m base n).length),
    (Memory.readBytes m base n)[k] = Memory.read m (base + k) := by
  induction n with
  | zero => intro base k hk; simp [Memory.readBytes] at hk
  | succ n ih =>
    intro base k hk
    cases k with
    | zero => rfl
    | succ k => simp [Memory.readBytes, ih, Nat.add_assoc, Nat.add_comm 1]

/-! ### Equal contents, equal lists -/

theorem Memory.ext_from {m₁ : Memory} : ∀ {m₂ : Memory} {lo : Nat}, Memory.wfFrom lo m₁ = true → Memory.wfFrom lo m₂ = true →
    (∀ a, Memory.read m₁ a = Memory.read m₂ a) → m₁ = m₂ := by
  induction m₁ with
  | nil =>
    intro m₂ lo _ h₂ h
    cases m₂ with
    | nil => rfl
    | cons e m₂ =>
      obtain ⟨k, b⟩ := e
      have hk := (Memory.wfFrom_cons.1 h₂).1.2.2
      exact absurd (h k) (by simpa [Memory.read] using hk.symm)
  | cons e m₁ ih =>
    obtain ⟨k, b⟩ := e
    intro m₂ lo h₁ h₂ h
    have g₁ := Memory.wfFrom_cons.1 h₁
    cases m₂ with
    | nil => exact absurd (h k) (by simpa [Memory.read] using g₁.1.2.2)
    | cons e₂ m₂ =>
      obtain ⟨k₂, b₂⟩ := e₂
      have g₂ := Memory.wfFrom_cons.1 h₂
      have hk : k = k₂ := by
        rcases Nat.lt_trichotomy k k₂ with hlt | heq | hgt
        · have := h k
          rw [Memory.read_below (Memory.wfFrom_cons.2 ⟨⟨Nat.le_refl k₂, g₂.1.2⟩, g₂.2⟩) hlt] at this
          exact absurd this (by simpa [Memory.read] using g₁.1.2.2)
        · exact heq
        · have := h k₂
          rw [Memory.read_below (Memory.wfFrom_cons.2 ⟨⟨Nat.le_refl k, g₁.1.2⟩, g₁.2⟩) hgt] at this
          exact absurd this (by simpa [Memory.read] using g₂.1.2.2.symm)
      subst hk
      have hb : b = b₂ := by simpa [Memory.read] using h k
      subst hb
      have : m₁ = m₂ := ih g₁.2 g₂.2 (fun a => by
        by_cases ha : a = k
        · subst ha
          rw [Memory.read_below g₁.2 (by omega), Memory.read_below g₂.2 (by omega)]
        · simpa [Memory.read, ha] using h a)
      rw [this]

/-- Two canonical memories with the same bytes are the same list. -/
theorem Memory.ext_of_read {m₁ m₂ : Memory} (h₁ : Memory.wf m₁ = true) (h₂ : Memory.wf m₂ = true)
    (h : ∀ a, Memory.read m₁ a = Memory.read m₂ a) : m₁ = m₂ :=
  Memory.ext_from h₁ h₂ h

end Sys2Proof.Machine
end

