-- ==== Sys2Proof/Laws/Draw.lean ====
section
/-!
SUPPORT. What the draw loops do, said once: each set sprite bit lands on a cell of its own, so a cell ends as its old value
XOR "covered", and the collision flag is set exactly if a covered cell was lit (spec/43_display.md R171, R172).
-/

namespace Sys2Proof.Machine

/-! ### One cell -/

theorem Framebuffer.flip_cell (f : Framebuffer) (px qx : Fin 64) (py qy : Fin 32) :
    Framebuffer.cell (Framebuffer.flip f px py) qx qy =
      (Framebuffer.cell f qx qy ^^ decide ((qx, qy) = (px, py))) := by
  unfold Framebuffer.cell Framebuffer.flip
  by_cases hy : qy = py
  · subst hy
    have hq := qx.isLt
    by_cases hx : qx = px
    · subst hx; simp
    · have hv : qx.val ≠ px.val := fun h => hx (Fin.ext h)
      have hs : (1#64 <<< px.val).getLsbD qx.val = false := by
        rw [BitVec.getLsbD_shiftLeft]
        rcases Nat.lt_or_gt_of_ne hv with h | h
        · simp [h]
        · have : (1#64).getLsbD (qx.val - px.val) = false := by
            rw [BitVec.getLsbD_one]; simp; omega
          simp [this]
      simp only [Vector.getElem_set_self, BitVec.getLsbD_xor, hs, Prod.mk.injEq, hx, false_and, decide_false]
  · have hv : py.val ≠ qy.val := fun h => hy (Fin.ext h.symm)
    simp [Vector.getElem_set_ne, hv, hy]

/-! ### A list of cells -/

/-- The cells of a list drawn one after the other. -/
def drawCells (cs : List (Fin 64 × Fin 32)) (p : Framebuffer × Bool) : Framebuffer × Bool :=
  cs.foldl (fun q c => drawPixel c.1 c.2 q) p

theorem drawCells_cell {cs : List (Fin 64 × Fin 32)} (hn : cs.Nodup) (c : Fin 64 × Fin 32) :
    ∀ p, Framebuffer.cell (drawCells cs p).1 c.1 c.2 = (Framebuffer.cell p.1 c.1 c.2 ^^ decide (c ∈ cs)) := by
  induction cs with
  | nil => intro p; simp [drawCells]
  | cons d cs ih =>
    intro p
    obtain ⟨hd, hn⟩ := List.nodup_cons.1 hn
    have h := ih hn (drawPixel d.1 d.2 p)
    rw [show drawCells (d :: cs) p = drawCells cs (drawPixel d.1 d.2 p) from rfl, h, drawPixel, Framebuffer.flip_cell]
    by_cases hc : c = d
    · subst hc; simp [hd]
    · simp [hc]

theorem drawCells_flag {cs : List (Fin 64 × Fin 32)} (hn : cs.Nodup) :
    ∀ p, (drawCells cs p).2 = (p.2 || cs.any (fun c => Framebuffer.cell p.1 c.1 c.2)) := by
  induction cs with
  | nil => intro p; simp [drawCells]
  | cons d cs ih =>
    intro p
    obtain ⟨hd, hn⟩ := List.nodup_cons.1 hn
    rw [show drawCells (d :: cs) p = drawCells cs (drawPixel d.1 d.2 p) from rfl, ih hn]
    have hcongr : cs.any (fun c => Framebuffer.cell (drawPixel d.1 d.2 p).1 c.1 c.2) =
        cs.any (fun c => Framebuffer.cell p.1 c.1 c.2) := by
      rw [Bool.eq_iff_iff, List.any_eq_true, List.any_eq_true]
      refine exists_congr fun c => and_congr_right fun hc => ?_
      have hne : ¬ ((c.1, c.2) = (d.1, d.2)) := fun h => hd ((show c = d from h) ▸ hc)
      rw [drawPixel, Framebuffer.flip_cell, decide_eq_false hne, Bool.xor_false]
    rw [hcongr, List.any_cons, drawPixel, Bool.or_assoc]

/-! ### The loops as a list of cells -/

/-- The cells the set bits of one sprite byte land on. -/
def rowCells (vx : Nat) (py : Fin 32) (b : Byte) : List (Fin 64 × Fin 32) :=
  ((List.range 8).filter (fun col => spriteBit b col)).map (fun col => (wrapColumn vx col, py))

/-- The cells the set bits of the sprite bytes from row `row` on land on. -/
def spriteCells (vx vy : Nat) : Nat → List Byte → List (Fin 64 × Fin 32)
  | _, [] => []
  | row, b :: bs => rowCells vx (wrapRow vy row) b ++ spriteCells vx vy (row + 1) bs

theorem drawRow_eq (vx : Nat) (py : Fin 32) (b : Byte) (p : Framebuffer × Bool) :
    drawRow vx py b p = drawCells (rowCells vx py b) p := by
  simp only [drawRow, drawCells, rowCells, List.foldl_map, List.foldl_filter]

theorem drawRows_eq (vx vy : Nat) (bs : List Byte) : ∀ row p,
    drawRows vx vy row bs p = drawCells (spriteCells vx vy row bs) p := by
  induction bs with
  | nil => intros; rfl
  | cons b bs ih =>
    intro row p
    rw [drawRows, ih, drawRow_eq, spriteCells, drawCells, drawCells, drawCells, List.foldl_append]

theorem mem_rowCells {vx : Nat} {py : Fin 32} {b : Byte} {c : Fin 64 × Fin 32} :
    c ∈ rowCells vx py b ↔ ∃ col < 8, spriteBit b col = true ∧ c = (wrapColumn vx col, py) := by
  simp only [rowCells, List.mem_map, List.mem_filter, List.mem_range]
  exact ⟨fun ⟨col, h, he⟩ => ⟨col, h.1, h.2, he.symm⟩, fun ⟨col, h, hb, he⟩ => ⟨col, ⟨h, hb⟩, he.symm⟩⟩

theorem mem_spriteCells {vx vy : Nat} {bs : List Byte} {c : Fin 64 × Fin 32} : ∀ {row : Nat},
    c ∈ spriteCells vx vy row bs ↔ ∃ (k : Nat) (hk : k < bs.length), ∃ col < 8,
      spriteBit bs[k] col = true ∧ c = (wrapColumn vx col, wrapRow vy (row + k)) := by
  induction bs with
  | nil => intro row; simp [spriteCells]
  | cons b bs ih =>
    intro row
    rw [spriteCells, List.mem_append, mem_rowCells, ih]
    constructor
    · rintro (⟨col, hc, hb, he⟩ | ⟨k, hk, col, hc, hb, he⟩)
      · exact ⟨0, by simp, col, hc, hb, he⟩
      · exact ⟨k + 1, by simpa using hk, col, hc, by simpa using hb, by rw [he, Nat.add_assoc, Nat.add_comm 1]⟩
    · rintro ⟨k, hk, col, hc, hb, he⟩
      cases k with
      | zero => exact .inl ⟨col, hc, hb, he⟩
      | succ k =>
        refine .inr ⟨k, by simpa using hk, col, hc, by simpa using hb, ?_⟩
        rw [he, Nat.add_assoc, Nat.add_comm 1]

/-- Distinct columns of a sprite row land on distinct cells (R171 (d)). -/
theorem rowCells_nodup (vx : Nat) (py : Fin 32) (b : Byte) : (rowCells vx py b).Nodup := by
  refine List.Nodup.map_on ?_ (List.nodup_range.filter _)
  intro c hc d hd h
  rw [List.mem_filter, List.mem_range] at hc hd
  have := congrArg (fun q : Fin 64 × Fin 32 => q.1.val) h
  simp only [wrapColumn] at this
  omega

/-- No two set bits of a sprite land on the same cell (R171 (d)). -/
theorem spriteCells_nodup (vx vy : Nat) (bs : List Byte) : ∀ row, bs.length ≤ 32 → (spriteCells vx vy row bs).Nodup := by
  induction bs with
  | nil => intros; exact List.nodup_nil
  | cons b bs ih =>
    intro row hlen
    rw [List.length_cons] at hlen
    refine (rowCells_nodup vx _ b).append (ih _ (by omega)) ?_
    intro c hc hd
    obtain ⟨_, _, _, rfl⟩ := mem_rowCells.1 hc
    obtain ⟨k, hk, _, _, _, he⟩ := mem_spriteCells.1 hd
    have := congrArg (fun q : Fin 64 × Fin 32 => q.2.val) he
    simp only [wrapRow] at this
    omega

/-! ### The draw loop -/

/-- A cell after the draw loop is its old value XOR "a set sprite bit lands on it". -/
theorem drawRows_cell (vx vy row : Nat) (bs : List Byte) (hlen : bs.length ≤ 32) (p : Framebuffer × Bool) (c : Fin 64 × Fin 32) :
    Framebuffer.cell (drawRows vx vy row bs p).1 c.1 c.2 =
      (Framebuffer.cell p.1 c.1 c.2 ^^ decide (c ∈ spriteCells vx vy row bs)) := by
  rw [drawRows_eq]; exact drawCells_cell (spriteCells_nodup vx vy bs row hlen) c p

/-- The collision flag after the draw loop: it was set, or a set sprite bit lands on a cell that was lit before the loop. -/
theorem drawRows_flag (vx vy row : Nat) (bs : List Byte) (hlen : bs.length ≤ 32) (p : Framebuffer × Bool) :
    (drawRows vx vy row bs p).2 = true ↔
      p.2 = true ∨ ∃ c ∈ spriteCells vx vy row bs, Framebuffer.cell p.1 c.1 c.2 = true := by
  rw [drawRows_eq, drawCells_flag (spriteCells_nodup vx vy bs row hlen), Bool.or_eq_true, List.any_eq_true]

end Sys2Proof.Machine
end

