-- ==== Sys2Proof/Laws/State.lean ====
section
/-!
SUPPORT. What each field, and each read, of a state is after each update: one lemma per pair, each true by unfolding the update
once, so that no later proof unfolds a record update.
-/

namespace Sys2Proof.Machine

variable (s : State)

/-! ### setV -/

@[simp] theorem State.setV_v (r : RegIx) (b : Byte) : (s.setV r b).v = s.v.set r.val b := rfl
@[simp] theorem State.setV_regI (r : RegIx) (b : Byte) : (s.setV r b).regI = s.regI := rfl
@[simp] theorem State.setV_pc (r : RegIx) (b : Byte) : (s.setV r b).pc = s.pc := rfl
@[simp] theorem State.setV_sp (r : RegIx) (b : Byte) : (s.setV r b).sp = s.sp := rfl
@[simp] theorem State.setV_stack (r : RegIx) (b : Byte) : (s.setV r b).stack = s.stack := rfl
@[simp] theorem State.setV_dt (r : RegIx) (b : Byte) : (s.setV r b).dt = s.dt := rfl
@[simp] theorem State.setV_st (r : RegIx) (b : Byte) : (s.setV r b).st = s.st := rfl
@[simp] theorem State.setV_fb (r : RegIx) (b : Byte) : (s.setV r b).fb = s.fb := rfl
@[simp] theorem State.setV_key (r : RegIx) (b : Byte) : (s.setV r b).key = s.key := rfl
@[simp] theorem State.setV_mem (r : RegIx) (b : Byte) : (s.setV r b).mem = s.mem := rfl
@[simp] theorem State.setV_err (r : RegIx) (b : Byte) : (s.setV r b).err = s.err := rfl
@[simp] theorem State.setV_errInfo (r : RegIx) (b : Byte) : (s.setV r b).errInfo = s.errInfo := rfl
@[simp] theorem State.setV_rndSupply (r : RegIx) (b : Byte) : (s.setV r b).rndSupply = s.rndSupply := rfl
@[simp] theorem State.setV_rndDraws (r : RegIx) (b : Byte) : (s.setV r b).rndDraws = s.rndDraws := rfl
@[simp] theorem State.setV_keyAt (r : RegIx) (b : Byte) (q : RegIx) : (s.setV r b).keyAt q = s.keyAt q := rfl
@[simp] theorem State.setV_pixel (r : RegIx) (b : Byte) (q : Fin 2048) : (s.setV r b).pixel q = s.pixel q := rfl
@[simp] theorem State.setV_readMem (r : RegIx) (b : Byte) (q : Nat) : (s.setV r b).readMem q = s.readMem q := rfl
@[simp] theorem State.setV_npc (r : RegIx) (b : Byte) : (s.setV r b).npc = s.npc := rfl
@[simp] theorem State.setV_randomByte (r : RegIx) (b : Byte) : (s.setV r b).randomByte = s.randomByte := rfl

/-! ### setAllV -/

@[simp] theorem State.setAllV_v (f : RegIx → Byte) : (s.setAllV f).v = Vector.ofFn f := rfl
@[simp] theorem State.setAllV_regI (f : RegIx → Byte) : (s.setAllV f).regI = s.regI := rfl
@[simp] theorem State.setAllV_pc (f : RegIx → Byte) : (s.setAllV f).pc = s.pc := rfl
@[simp] theorem State.setAllV_sp (f : RegIx → Byte) : (s.setAllV f).sp = s.sp := rfl
@[simp] theorem State.setAllV_stack (f : RegIx → Byte) : (s.setAllV f).stack = s.stack := rfl
@[simp] theorem State.setAllV_dt (f : RegIx → Byte) : (s.setAllV f).dt = s.dt := rfl
@[simp] theorem State.setAllV_st (f : RegIx → Byte) : (s.setAllV f).st = s.st := rfl
@[simp] theorem State.setAllV_fb (f : RegIx → Byte) : (s.setAllV f).fb = s.fb := rfl
@[simp] theorem State.setAllV_key (f : RegIx → Byte) : (s.setAllV f).key = s.key := rfl
@[simp] theorem State.setAllV_mem (f : RegIx → Byte) : (s.setAllV f).mem = s.mem := rfl
@[simp] theorem State.setAllV_err (f : RegIx → Byte) : (s.setAllV f).err = s.err := rfl
@[simp] theorem State.setAllV_errInfo (f : RegIx → Byte) : (s.setAllV f).errInfo = s.errInfo := rfl
@[simp] theorem State.setAllV_rndSupply (f : RegIx → Byte) : (s.setAllV f).rndSupply = s.rndSupply := rfl
@[simp] theorem State.setAllV_rndDraws (f : RegIx → Byte) : (s.setAllV f).rndDraws = s.rndDraws := rfl
@[simp] theorem State.setAllV_keyAt (f : RegIx → Byte) (q : RegIx) : (s.setAllV f).keyAt q = s.keyAt q := rfl
@[simp] theorem State.setAllV_pixel (f : RegIx → Byte) (q : Fin 2048) : (s.setAllV f).pixel q = s.pixel q := rfl
@[simp] theorem State.setAllV_readMem (f : RegIx → Byte) (q : Nat) : (s.setAllV f).readMem q = s.readMem q := rfl
@[simp] theorem State.setAllV_npc (f : RegIx → Byte) : (s.setAllV f).npc = s.npc := rfl
@[simp] theorem State.setAllV_randomByte (f : RegIx → Byte) : (s.setAllV f).randomByte = s.randomByte := rfl

/-! ### setPc -/

@[simp] theorem State.setPc_v (a : Word) : (s.setPc a).v = s.v := rfl
@[simp] theorem State.setPc_regI (a : Word) : (s.setPc a).regI = s.regI := rfl
@[simp] theorem State.setPc_pc (a : Word) : (s.setPc a).pc = a := rfl
@[simp] theorem State.setPc_sp (a : Word) : (s.setPc a).sp = s.sp := rfl
@[simp] theorem State.setPc_stack (a : Word) : (s.setPc a).stack = s.stack := rfl
@[simp] theorem State.setPc_dt (a : Word) : (s.setPc a).dt = s.dt := rfl
@[simp] theorem State.setPc_st (a : Word) : (s.setPc a).st = s.st := rfl
@[simp] theorem State.setPc_fb (a : Word) : (s.setPc a).fb = s.fb := rfl
@[simp] theorem State.setPc_key (a : Word) : (s.setPc a).key = s.key := rfl
@[simp] theorem State.setPc_mem (a : Word) : (s.setPc a).mem = s.mem := rfl
@[simp] theorem State.setPc_err (a : Word) : (s.setPc a).err = s.err := rfl
@[simp] theorem State.setPc_errInfo (a : Word) : (s.setPc a).errInfo = s.errInfo := rfl
@[simp] theorem State.setPc_rndSupply (a : Word) : (s.setPc a).rndSupply = s.rndSupply := rfl
@[simp] theorem State.setPc_rndDraws (a : Word) : (s.setPc a).rndDraws = s.rndDraws := rfl
@[simp] theorem State.setPc_getV (a : Word) (q : RegIx) : (s.setPc a).getV q = s.getV q := rfl
@[simp] theorem State.setPc_keyAt (a : Word) (q : RegIx) : (s.setPc a).keyAt q = s.keyAt q := rfl
@[simp] theorem State.setPc_pixel (a : Word) (q : Fin 2048) : (s.setPc a).pixel q = s.pixel q := rfl
@[simp] theorem State.setPc_readMem (a : Word) (q : Nat) : (s.setPc a).readMem q = s.readMem q := rfl
@[simp] theorem State.setPc_randomByte (a : Word) : (s.setPc a).randomByte = s.randomByte := rfl

/-! ### setI -/

@[simp] theorem State.setI_v (a : Word) : (s.setI a).v = s.v := rfl
@[simp] theorem State.setI_regI (a : Word) : (s.setI a).regI = a := rfl
@[simp] theorem State.setI_pc (a : Word) : (s.setI a).pc = s.pc := rfl
@[simp] theorem State.setI_sp (a : Word) : (s.setI a).sp = s.sp := rfl
@[simp] theorem State.setI_stack (a : Word) : (s.setI a).stack = s.stack := rfl
@[simp] theorem State.setI_dt (a : Word) : (s.setI a).dt = s.dt := rfl
@[simp] theorem State.setI_st (a : Word) : (s.setI a).st = s.st := rfl
@[simp] theorem State.setI_fb (a : Word) : (s.setI a).fb = s.fb := rfl
@[simp] theorem State.setI_key (a : Word) : (s.setI a).key = s.key := rfl
@[simp] theorem State.setI_mem (a : Word) : (s.setI a).mem = s.mem := rfl
@[simp] theorem State.setI_err (a : Word) : (s.setI a).err = s.err := rfl
@[simp] theorem State.setI_errInfo (a : Word) : (s.setI a).errInfo = s.errInfo := rfl
@[simp] theorem State.setI_rndSupply (a : Word) : (s.setI a).rndSupply = s.rndSupply := rfl
@[simp] theorem State.setI_rndDraws (a : Word) : (s.setI a).rndDraws = s.rndDraws := rfl
@[simp] theorem State.setI_getV (a : Word) (q : RegIx) : (s.setI a).getV q = s.getV q := rfl
@[simp] theorem State.setI_keyAt (a : Word) (q : RegIx) : (s.setI a).keyAt q = s.keyAt q := rfl
@[simp] theorem State.setI_pixel (a : Word) (q : Fin 2048) : (s.setI a).pixel q = s.pixel q := rfl
@[simp] theorem State.setI_readMem (a : Word) (q : Nat) : (s.setI a).readMem q = s.readMem q := rfl
@[simp] theorem State.setI_npc (a : Word) : (s.setI a).npc = s.npc := rfl
@[simp] theorem State.setI_randomByte (a : Word) : (s.setI a).randomByte = s.randomByte := rfl

/-! ### setSp -/

@[simp] theorem State.setSp_v (n : BitVec 5) : (s.setSp n).v = s.v := rfl
@[simp] theorem State.setSp_regI (n : BitVec 5) : (s.setSp n).regI = s.regI := rfl
@[simp] theorem State.setSp_pc (n : BitVec 5) : (s.setSp n).pc = s.pc := rfl
@[simp] theorem State.setSp_sp (n : BitVec 5) : (s.setSp n).sp = n := rfl
@[simp] theorem State.setSp_stack (n : BitVec 5) : (s.setSp n).stack = s.stack := rfl
@[simp] theorem State.setSp_dt (n : BitVec 5) : (s.setSp n).dt = s.dt := rfl
@[simp] theorem State.setSp_st (n : BitVec 5) : (s.setSp n).st = s.st := rfl
@[simp] theorem State.setSp_fb (n : BitVec 5) : (s.setSp n).fb = s.fb := rfl
@[simp] theorem State.setSp_key (n : BitVec 5) : (s.setSp n).key = s.key := rfl
@[simp] theorem State.setSp_mem (n : BitVec 5) : (s.setSp n).mem = s.mem := rfl
@[simp] theorem State.setSp_err (n : BitVec 5) : (s.setSp n).err = s.err := rfl
@[simp] theorem State.setSp_errInfo (n : BitVec 5) : (s.setSp n).errInfo = s.errInfo := rfl
@[simp] theorem State.setSp_rndSupply (n : BitVec 5) : (s.setSp n).rndSupply = s.rndSupply := rfl
@[simp] theorem State.setSp_rndDraws (n : BitVec 5) : (s.setSp n).rndDraws = s.rndDraws := rfl
@[simp] theorem State.setSp_getV (n : BitVec 5) (q : RegIx) : (s.setSp n).getV q = s.getV q := rfl
@[simp] theorem State.setSp_keyAt (n : BitVec 5) (q : RegIx) : (s.setSp n).keyAt q = s.keyAt q := rfl
@[simp] theorem State.setSp_pixel (n : BitVec 5) (q : Fin 2048) : (s.setSp n).pixel q = s.pixel q := rfl
@[simp] theorem State.setSp_readMem (n : BitVec 5) (q : Nat) : (s.setSp n).readMem q = s.readMem q := rfl
@[simp] theorem State.setSp_npc (n : BitVec 5) : (s.setSp n).npc = s.npc := rfl
@[simp] theorem State.setSp_randomByte (n : BitVec 5) : (s.setSp n).randomByte = s.randomByte := rfl

/-! ### setStackAt -/

@[simp] theorem State.setStackAt_v (k : Fin 30) (a : Word) : (s.setStackAt k a).v = s.v := rfl
@[simp] theorem State.setStackAt_regI (k : Fin 30) (a : Word) : (s.setStackAt k a).regI = s.regI := rfl
@[simp] theorem State.setStackAt_pc (k : Fin 30) (a : Word) : (s.setStackAt k a).pc = s.pc := rfl
@[simp] theorem State.setStackAt_sp (k : Fin 30) (a : Word) : (s.setStackAt k a).sp = s.sp := rfl
@[simp] theorem State.setStackAt_stack (k : Fin 30) (a : Word) : (s.setStackAt k a).stack = s.stack.set k.val a := rfl
@[simp] theorem State.setStackAt_dt (k : Fin 30) (a : Word) : (s.setStackAt k a).dt = s.dt := rfl
@[simp] theorem State.setStackAt_st (k : Fin 30) (a : Word) : (s.setStackAt k a).st = s.st := rfl
@[simp] theorem State.setStackAt_fb (k : Fin 30) (a : Word) : (s.setStackAt k a).fb = s.fb := rfl
@[simp] theorem State.setStackAt_key (k : Fin 30) (a : Word) : (s.setStackAt k a).key = s.key := rfl
@[simp] theorem State.setStackAt_mem (k : Fin 30) (a : Word) : (s.setStackAt k a).mem = s.mem := rfl
@[simp] theorem State.setStackAt_err (k : Fin 30) (a : Word) : (s.setStackAt k a).err = s.err := rfl
@[simp] theorem State.setStackAt_errInfo (k : Fin 30) (a : Word) : (s.setStackAt k a).errInfo = s.errInfo := rfl
@[simp] theorem State.setStackAt_rndSupply (k : Fin 30) (a : Word) : (s.setStackAt k a).rndSupply = s.rndSupply := rfl
@[simp] theorem State.setStackAt_rndDraws (k : Fin 30) (a : Word) : (s.setStackAt k a).rndDraws = s.rndDraws := rfl
@[simp] theorem State.setStackAt_getV (k : Fin 30) (a : Word) (q : RegIx) : (s.setStackAt k a).getV q = s.getV q := rfl
@[simp] theorem State.setStackAt_keyAt (k : Fin 30) (a : Word) (q : RegIx) : (s.setStackAt k a).keyAt q = s.keyAt q := rfl
@[simp] theorem State.setStackAt_pixel (k : Fin 30) (a : Word) (q : Fin 2048) : (s.setStackAt k a).pixel q = s.pixel q := rfl
@[simp] theorem State.setStackAt_readMem (k : Fin 30) (a : Word) (q : Nat) : (s.setStackAt k a).readMem q = s.readMem q := rfl
@[simp] theorem State.setStackAt_npc (k : Fin 30) (a : Word) : (s.setStackAt k a).npc = s.npc := rfl
@[simp] theorem State.setStackAt_randomByte (k : Fin 30) (a : Word) : (s.setStackAt k a).randomByte = s.randomByte := rfl

/-! ### setDt -/

@[simp] theorem State.setDt_v (b : Byte) : (s.setDt b).v = s.v := rfl
@[simp] theorem State.setDt_regI (b : Byte) : (s.setDt b).regI = s.regI := rfl
@[simp] theorem State.setDt_pc (b : Byte) : (s.setDt b).pc = s.pc := rfl
@[simp] theorem State.setDt_sp (b : Byte) : (s.setDt b).sp = s.sp := rfl
@[simp] theorem State.setDt_stack (b : Byte) : (s.setDt b).stack = s.stack := rfl
@[simp] theorem State.setDt_dt (b : Byte) : (s.setDt b).dt = b := rfl
@[simp] theorem State.setDt_st (b : Byte) : (s.setDt b).st = s.st := rfl
@[simp] theorem State.setDt_fb (b : Byte) : (s.setDt b).fb = s.fb := rfl
@[simp] theorem State.setDt_key (b : Byte) : (s.setDt b).key = s.key := rfl
@[simp] theorem State.setDt_mem (b : Byte) : (s.setDt b).mem = s.mem := rfl
@[simp] theorem State.setDt_err (b : Byte) : (s.setDt b).err = s.err := rfl
@[simp] theorem State.setDt_errInfo (b : Byte) : (s.setDt b).errInfo = s.errInfo := rfl
@[simp] theorem State.setDt_rndSupply (b : Byte) : (s.setDt b).rndSupply = s.rndSupply := rfl
@[simp] theorem State.setDt_rndDraws (b : Byte) : (s.setDt b).rndDraws = s.rndDraws := rfl
@[simp] theorem State.setDt_getV (b : Byte) (q : RegIx) : (s.setDt b).getV q = s.getV q := rfl
@[simp] theorem State.setDt_keyAt (b : Byte) (q : RegIx) : (s.setDt b).keyAt q = s.keyAt q := rfl
@[simp] theorem State.setDt_pixel (b : Byte) (q : Fin 2048) : (s.setDt b).pixel q = s.pixel q := rfl
@[simp] theorem State.setDt_readMem (b : Byte) (q : Nat) : (s.setDt b).readMem q = s.readMem q := rfl
@[simp] theorem State.setDt_npc (b : Byte) : (s.setDt b).npc = s.npc := rfl
@[simp] theorem State.setDt_randomByte (b : Byte) : (s.setDt b).randomByte = s.randomByte := rfl

/-! ### setSt -/

@[simp] theorem State.setSt_v (b : Byte) : (s.setSt b).v = s.v := rfl
@[simp] theorem State.setSt_regI (b : Byte) : (s.setSt b).regI = s.regI := rfl
@[simp] theorem State.setSt_pc (b : Byte) : (s.setSt b).pc = s.pc := rfl
@[simp] theorem State.setSt_sp (b : Byte) : (s.setSt b).sp = s.sp := rfl
@[simp] theorem State.setSt_stack (b : Byte) : (s.setSt b).stack = s.stack := rfl
@[simp] theorem State.setSt_dt (b : Byte) : (s.setSt b).dt = s.dt := rfl
@[simp] theorem State.setSt_st (b : Byte) : (s.setSt b).st = b := rfl
@[simp] theorem State.setSt_fb (b : Byte) : (s.setSt b).fb = s.fb := rfl
@[simp] theorem State.setSt_key (b : Byte) : (s.setSt b).key = s.key := rfl
@[simp] theorem State.setSt_mem (b : Byte) : (s.setSt b).mem = s.mem := rfl
@[simp] theorem State.setSt_err (b : Byte) : (s.setSt b).err = s.err := rfl
@[simp] theorem State.setSt_errInfo (b : Byte) : (s.setSt b).errInfo = s.errInfo := rfl
@[simp] theorem State.setSt_rndSupply (b : Byte) : (s.setSt b).rndSupply = s.rndSupply := rfl
@[simp] theorem State.setSt_rndDraws (b : Byte) : (s.setSt b).rndDraws = s.rndDraws := rfl
@[simp] theorem State.setSt_getV (b : Byte) (q : RegIx) : (s.setSt b).getV q = s.getV q := rfl
@[simp] theorem State.setSt_keyAt (b : Byte) (q : RegIx) : (s.setSt b).keyAt q = s.keyAt q := rfl
@[simp] theorem State.setSt_pixel (b : Byte) (q : Fin 2048) : (s.setSt b).pixel q = s.pixel q := rfl
@[simp] theorem State.setSt_readMem (b : Byte) (q : Nat) : (s.setSt b).readMem q = s.readMem q := rfl
@[simp] theorem State.setSt_npc (b : Byte) : (s.setSt b).npc = s.npc := rfl
@[simp] theorem State.setSt_randomByte (b : Byte) : (s.setSt b).randomByte = s.randomByte := rfl

/-! ### setFb -/

@[simp] theorem State.setFb_v (f : Framebuffer) : (s.setFb f).v = s.v := rfl
@[simp] theorem State.setFb_regI (f : Framebuffer) : (s.setFb f).regI = s.regI := rfl
@[simp] theorem State.setFb_pc (f : Framebuffer) : (s.setFb f).pc = s.pc := rfl
@[simp] theorem State.setFb_sp (f : Framebuffer) : (s.setFb f).sp = s.sp := rfl
@[simp] theorem State.setFb_stack (f : Framebuffer) : (s.setFb f).stack = s.stack := rfl
@[simp] theorem State.setFb_dt (f : Framebuffer) : (s.setFb f).dt = s.dt := rfl
@[simp] theorem State.setFb_st (f : Framebuffer) : (s.setFb f).st = s.st := rfl
@[simp] theorem State.setFb_fb (f : Framebuffer) : (s.setFb f).fb = f := rfl
@[simp] theorem State.setFb_key (f : Framebuffer) : (s.setFb f).key = s.key := rfl
@[simp] theorem State.setFb_mem (f : Framebuffer) : (s.setFb f).mem = s.mem := rfl
@[simp] theorem State.setFb_err (f : Framebuffer) : (s.setFb f).err = s.err := rfl
@[simp] theorem State.setFb_errInfo (f : Framebuffer) : (s.setFb f).errInfo = s.errInfo := rfl
@[simp] theorem State.setFb_rndSupply (f : Framebuffer) : (s.setFb f).rndSupply = s.rndSupply := rfl
@[simp] theorem State.setFb_rndDraws (f : Framebuffer) : (s.setFb f).rndDraws = s.rndDraws := rfl
@[simp] theorem State.setFb_getV (f : Framebuffer) (q : RegIx) : (s.setFb f).getV q = s.getV q := rfl
@[simp] theorem State.setFb_keyAt (f : Framebuffer) (q : RegIx) : (s.setFb f).keyAt q = s.keyAt q := rfl
@[simp] theorem State.setFb_readMem (f : Framebuffer) (q : Nat) : (s.setFb f).readMem q = s.readMem q := rfl
@[simp] theorem State.setFb_npc (f : Framebuffer) : (s.setFb f).npc = s.npc := rfl
@[simp] theorem State.setFb_randomByte (f : Framebuffer) : (s.setFb f).randomByte = s.randomByte := rfl

/-! ### setKeyAt -/

@[simp] theorem State.setKeyAt_v (k : RegIx) (down : Bool) : (s.setKeyAt k down).v = s.v := rfl
@[simp] theorem State.setKeyAt_regI (k : RegIx) (down : Bool) : (s.setKeyAt k down).regI = s.regI := rfl
@[simp] theorem State.setKeyAt_pc (k : RegIx) (down : Bool) : (s.setKeyAt k down).pc = s.pc := rfl
@[simp] theorem State.setKeyAt_sp (k : RegIx) (down : Bool) : (s.setKeyAt k down).sp = s.sp := rfl
@[simp] theorem State.setKeyAt_stack (k : RegIx) (down : Bool) : (s.setKeyAt k down).stack = s.stack := rfl
@[simp] theorem State.setKeyAt_dt (k : RegIx) (down : Bool) : (s.setKeyAt k down).dt = s.dt := rfl
@[simp] theorem State.setKeyAt_st (k : RegIx) (down : Bool) : (s.setKeyAt k down).st = s.st := rfl
@[simp] theorem State.setKeyAt_fb (k : RegIx) (down : Bool) : (s.setKeyAt k down).fb = s.fb := rfl
@[simp] theorem State.setKeyAt_key (k : RegIx) (down : Bool) : (s.setKeyAt k down).key = s.key.set k.val down := rfl
@[simp] theorem State.setKeyAt_mem (k : RegIx) (down : Bool) : (s.setKeyAt k down).mem = s.mem := rfl
@[simp] theorem State.setKeyAt_err (k : RegIx) (down : Bool) : (s.setKeyAt k down).err = s.err := rfl
@[simp] theorem State.setKeyAt_errInfo (k : RegIx) (down : Bool) : (s.setKeyAt k down).errInfo = s.errInfo := rfl
@[simp] theorem State.setKeyAt_rndSupply (k : RegIx) (down : Bool) : (s.setKeyAt k down).rndSupply = s.rndSupply := rfl
@[simp] theorem State.setKeyAt_rndDraws (k : RegIx) (down : Bool) : (s.setKeyAt k down).rndDraws = s.rndDraws := rfl
@[simp] theorem State.setKeyAt_getV (k : RegIx) (down : Bool) (q : RegIx) : (s.setKeyAt k down).getV q = s.getV q := rfl
@[simp] theorem State.setKeyAt_pixel (k : RegIx) (down : Bool) (q : Fin 2048) : (s.setKeyAt k down).pixel q = s.pixel q := rfl
@[simp] theorem State.setKeyAt_readMem (k : RegIx) (down : Bool) (q : Nat) : (s.setKeyAt k down).readMem q = s.readMem q := rfl
@[simp] theorem State.setKeyAt_npc (k : RegIx) (down : Bool) : (s.setKeyAt k down).npc = s.npc := rfl
@[simp] theorem State.setKeyAt_randomByte (k : RegIx) (down : Bool) : (s.setKeyAt k down).randomByte = s.randomByte := rfl

/-! ### setMem -/

@[simp] theorem State.setMem_v (m : Memory) : (s.setMem m).v = s.v := rfl
@[simp] theorem State.setMem_regI (m : Memory) : (s.setMem m).regI = s.regI := rfl
@[simp] theorem State.setMem_pc (m : Memory) : (s.setMem m).pc = s.pc := rfl
@[simp] theorem State.setMem_sp (m : Memory) : (s.setMem m).sp = s.sp := rfl
@[simp] theorem State.setMem_stack (m : Memory) : (s.setMem m).stack = s.stack := rfl
@[simp] theorem State.setMem_dt (m : Memory) : (s.setMem m).dt = s.dt := rfl
@[simp] theorem State.setMem_st (m : Memory) : (s.setMem m).st = s.st := rfl
@[simp] theorem State.setMem_fb (m : Memory) : (s.setMem m).fb = s.fb := rfl
@[simp] theorem State.setMem_key (m : Memory) : (s.setMem m).key = s.key := rfl
@[simp] theorem State.setMem_mem (m : Memory) : (s.setMem m).mem = m := rfl
@[simp] theorem State.setMem_err (m : Memory) : (s.setMem m).err = s.err := rfl
@[simp] theorem State.setMem_errInfo (m : Memory) : (s.setMem m).errInfo = s.errInfo := rfl
@[simp] theorem State.setMem_rndSupply (m : Memory) : (s.setMem m).rndSupply = s.rndSupply := rfl
@[simp] theorem State.setMem_rndDraws (m : Memory) : (s.setMem m).rndDraws = s.rndDraws := rfl
@[simp] theorem State.setMem_getV (m : Memory) (q : RegIx) : (s.setMem m).getV q = s.getV q := rfl
@[simp] theorem State.setMem_keyAt (m : Memory) (q : RegIx) : (s.setMem m).keyAt q = s.keyAt q := rfl
@[simp] theorem State.setMem_pixel (m : Memory) (q : Fin 2048) : (s.setMem m).pixel q = s.pixel q := rfl
@[simp] theorem State.setMem_npc (m : Memory) : (s.setMem m).npc = s.npc := rfl
@[simp] theorem State.setMem_randomByte (m : Memory) : (s.setMem m).randomByte = s.randomByte := rfl

/-! ### latch -/

@[simp] theorem State.latch_v (e : Err) (info : ErrInfo) : (s.latch e info).v = s.v := rfl
@[simp] theorem State.latch_regI (e : Err) (info : ErrInfo) : (s.latch e info).regI = s.regI := rfl
@[simp] theorem State.latch_pc (e : Err) (info : ErrInfo) : (s.latch e info).pc = s.pc := rfl
@[simp] theorem State.latch_sp (e : Err) (info : ErrInfo) : (s.latch e info).sp = s.sp := rfl
@[simp] theorem State.latch_stack (e : Err) (info : ErrInfo) : (s.latch e info).stack = s.stack := rfl
@[simp] theorem State.latch_dt (e : Err) (info : ErrInfo) : (s.latch e info).dt = s.dt := rfl
@[simp] theorem State.latch_st (e : Err) (info : ErrInfo) : (s.latch e info).st = s.st := rfl
@[simp] theorem State.latch_fb (e : Err) (info : ErrInfo) : (s.latch e info).fb = s.fb := rfl
@[simp] theorem State.latch_key (e : Err) (info : ErrInfo) : (s.latch e info).key = s.key := rfl
@[simp] theorem State.latch_mem (e : Err) (info : ErrInfo) : (s.latch e info).mem = s.mem := rfl
@[simp] theorem State.latch_err (e : Err) (info : ErrInfo) : (s.latch e info).err = e := rfl
@[simp] theorem State.latch_errInfo (e : Err) (info : ErrInfo) : (s.latch e info).errInfo = info := rfl
@[simp] theorem State.latch_rndSupply (e : Err) (info : ErrInfo) : (s.latch e info).rndSupply = s.rndSupply := rfl
@[simp] theorem State.latch_rndDraws (e : Err) (info : ErrInfo) : (s.latch e info).rndDraws = s.rndDraws := rfl
@[simp] theorem State.latch_getV (e : Err) (info : ErrInfo) (q : RegIx) : (s.latch e info).getV q = s.getV q := rfl
@[simp] theorem State.latch_keyAt (e : Err) (info : ErrInfo) (q : RegIx) : (s.latch e info).keyAt q = s.keyAt q := rfl
@[simp] theorem State.latch_pixel (e : Err) (info : ErrInfo) (q : Fin 2048) : (s.latch e info).pixel q = s.pixel q := rfl
@[simp] theorem State.latch_readMem (e : Err) (info : ErrInfo) (q : Nat) : (s.latch e info).readMem q = s.readMem q := rfl
@[simp] theorem State.latch_npc (e : Err) (info : ErrInfo) : (s.latch e info).npc = s.npc := rfl
@[simp] theorem State.latch_randomByte (e : Err) (info : ErrInfo) : (s.latch e info).randomByte = s.randomByte := rfl

/-! ### consumeRandom -/

@[simp] theorem State.consumeRandom_v : (s.consumeRandom).v = s.v := rfl
@[simp] theorem State.consumeRandom_regI : (s.consumeRandom).regI = s.regI := rfl
@[simp] theorem State.consumeRandom_pc : (s.consumeRandom).pc = s.pc := rfl
@[simp] theorem State.consumeRandom_sp : (s.consumeRandom).sp = s.sp := rfl
@[simp] theorem State.consumeRandom_stack : (s.consumeRandom).stack = s.stack := rfl
@[simp] theorem State.consumeRandom_dt : (s.consumeRandom).dt = s.dt := rfl
@[simp] theorem State.consumeRandom_st : (s.consumeRandom).st = s.st := rfl
@[simp] theorem State.consumeRandom_fb : (s.consumeRandom).fb = s.fb := rfl
@[simp] theorem State.consumeRandom_key : (s.consumeRandom).key = s.key := rfl
@[simp] theorem State.consumeRandom_mem : (s.consumeRandom).mem = s.mem := rfl
@[simp] theorem State.consumeRandom_err : (s.consumeRandom).err = s.err := rfl
@[simp] theorem State.consumeRandom_errInfo : (s.consumeRandom).errInfo = s.errInfo := rfl
@[simp] theorem State.consumeRandom_rndSupply : (s.consumeRandom).rndSupply = s.rndSupply.tail := rfl
@[simp] theorem State.consumeRandom_rndDraws : (s.consumeRandom).rndDraws = s.rndDraws + 1 := rfl
@[simp] theorem State.consumeRandom_getV (q : RegIx) : (s.consumeRandom).getV q = s.getV q := rfl
@[simp] theorem State.consumeRandom_keyAt (q : RegIx) : (s.consumeRandom).keyAt q = s.keyAt q := rfl
@[simp] theorem State.consumeRandom_pixel (q : Fin 2048) : (s.consumeRandom).pixel q = s.pixel q := rfl
@[simp] theorem State.consumeRandom_readMem (q : Nat) : (s.consumeRandom).readMem q = s.readMem q := rfl
@[simp] theorem State.consumeRandom_npc : (s.consumeRandom).npc = s.npc := rfl

/-! ### Reads of what was written -/

theorem State.getV_eq (r : RegIx) : s.getV r = s.v[r.val] := rfl

@[simp] theorem State.setV_getV_self (r : RegIx) (b : Byte) : (s.setV r b).getV r = b := by
  simp [State.getV]

theorem State.setV_getV_ne {r q : RegIx} (h : q ≠ r) (b : Byte) : (s.setV r b).getV q = s.getV q := by
  have hv : r.val ≠ q.val := fun hr => h (Fin.ext hr.symm)
  simp [State.getV, Vector.getElem_set_ne, hv]

theorem State.setV_getV (r q : RegIx) (b : Byte) :
    (s.setV r b).getV q = if q = r then b else s.getV q := by
  split
  · subst_vars; simp
  · exact s.setV_getV_ne ‹_› b

@[simp] theorem State.setAllV_getV (f : RegIx → Byte) (q : RegIx) : (s.setAllV f).getV q = f q := by
  simp [State.getV]

@[simp] theorem State.setKeyAt_keyAt_self (k : RegIx) (down : Bool) : (s.setKeyAt k down).keyAt k = down := by
  simp [State.keyAt]

theorem State.setKeyAt_keyAt_ne {k q : RegIx} (h : q ≠ k) (down : Bool) :
    (s.setKeyAt k down).keyAt q = s.keyAt q := by
  have hv : k.val ≠ q.val := fun hk => h (Fin.ext hk.symm)
  simp [State.keyAt, Vector.getElem_set_ne, hv]

@[simp] theorem State.setMem_readMem (m : Memory) (a : Nat) : (s.setMem m).readMem a = Memory.read m a := rfl

@[simp] theorem State.setPc_npc (a : Word) : (s.setPc a).npc = a + 2 := rfl

/-- The byte `RandomByte()` returns is the oldest supplied one, if there is one. -/
theorem State.randomByte_cons {b : Byte} {bs : List Byte} (h : s.rndSupply = b :: bs) : s.randomByte = b := by
  simp [State.randomByte, h]

/-- With an empty supply the byte is the free value. -/
theorem State.randomByte_nil (h : s.rndSupply = []) : s.randomByte = Config.randomByte s.rndDraws := by
  simp [State.randomByte, h]

end Sys2Proof.Machine
end

