-- ==== Sys2Proof/Laws/Ops.lean ====
section
/-!
SUPPORT. One lemma for each shared operation of the meanings, saying once everything it can do; later proofs cite these and do not
unfold the operations.
-/

namespace Sys2Proof.Machine

variable (s : State)

/-! ### Ends of instructions (R14, R100) -/

theorem finish_eq : finish s = .next (s.setPc (s.pc + 2)) := rfl

theorem jumpTo_eq (a : Word) : jumpTo a s = .next (s.setPc a) := rfl

theorem skipIf_eq (taken : Bool) : skipIf taken s = .next (s.setPc (if taken then s.pc + 4 else s.pc + 2)) := by
  cases taken
  · rfl
  · simp [skipIf, State.npc, BitVec.add_assoc]

theorem raisePc_eq (e : Err) : raisePc e s = .next { s with err := e, errInfo := .pc s.pc } := rfl

theorem raiseIllegal_eq (op : Word) :
    raiseIllegal op s = .next { s with err := .illegalInstruction, errInfo := .pcOp s.pc op } := rfl

/-! ### The stack (R102, R104) -/

theorem pushAndJump_full (a target : Word) (h : s.sp = 30) :
    pushAndJump a target s = .next (s.latch .stackOverflow (.pc s.pc)) := by
  simp [pushAndJump, h, raisePc]

theorem pushAndJump_pushes (a target : Word) (h : s.sp.toNat < 30) :
    pushAndJump a target s = .next (((s.setStackAt ⟨s.sp.toNat, h⟩ a).setSp (s.sp + 1)).setPc target) := by
  have h30 : ¬ s.sp = 30 := fun he => by rw [he] at h; exact absurd h (by decide)
  rw [pushAndJump, if_neg h30, dif_pos h, jumpTo]

theorem pushAndJump_stops (a target : Word) (h : 30 < s.sp.toNat) : pushAndJump a target s = .fault .stackIndex := by
  have h30 : ¬ s.sp = 30 := fun he => by rw [he] at h; exact absurd h (by decide)
  rw [pushAndJump, if_neg h30, dif_neg (Nat.not_lt.2 (Nat.le_of_lt h))]

theorem popAndJump_empty (h : s.sp = 0) : popAndJump s = .next (s.latch .stackUnderflow (.pc s.pc)) := by
  simp [popAndJump, h, raisePc]

theorem popAndJump_pops (h0 : 0 < s.sp.toNat) (h : s.sp.toNat - 1 < 30) :
    popAndJump s = .next ((s.setSp (s.sp - 1)).setPc (s.stack[s.sp.toNat - 1])) := by
  have hz : ¬ s.sp = 0 := fun he => by rw [he] at h0; exact absurd h0 (by decide)
  rw [popAndJump, if_neg hz, dif_pos h, jumpTo]

theorem popAndJump_stops (h : 30 < s.sp.toNat) : popAndJump s = .fault .stackIndex := by
  have hz : ¬ s.sp = 0 := fun he => by rw [he] at h; exact absurd h (by decide)
  have hn : ¬ s.sp.toNat - 1 < 30 := by omega
  rw [popAndJump, if_neg hz, dif_neg hn]

/-! ### Result and flag (R132) -/

theorem writeResultThenFlag_getV (x q : RegIx) (result : Byte) (flag : Bool) :
    (writeResultThenFlag x result flag s).getV q =
      if q = vf then flagByte flag else if q = x then result else s.getV q := by
  rw [writeResultThenFlag, State.setV_getV, State.setV_getV]

@[simp] theorem writeResultThenFlag_regI (x : RegIx) (result : Byte) (flag : Bool) :
    (writeResultThenFlag x result flag s).regI = s.regI := rfl

@[simp] theorem writeResultThenFlag_pc (x : RegIx) (result : Byte) (flag : Bool) :
    (writeResultThenFlag x result flag s).pc = s.pc := rfl

@[simp] theorem writeResultThenFlag_sp (x : RegIx) (result : Byte) (flag : Bool) :
    (writeResultThenFlag x result flag s).sp = s.sp := rfl

@[simp] theorem writeResultThenFlag_stack (x : RegIx) (result : Byte) (flag : Bool) :
    (writeResultThenFlag x result flag s).stack = s.stack := rfl

@[simp] theorem writeResultThenFlag_dt (x : RegIx) (result : Byte) (flag : Bool) :
    (writeResultThenFlag x result flag s).dt = s.dt := rfl

@[simp] theorem writeResultThenFlag_st (x : RegIx) (result : Byte) (flag : Bool) :
    (writeResultThenFlag x result flag s).st = s.st := rfl

@[simp] theorem writeResultThenFlag_fb (x : RegIx) (result : Byte) (flag : Bool) :
    (writeResultThenFlag x result flag s).fb = s.fb := rfl

@[simp] theorem writeResultThenFlag_key (x : RegIx) (result : Byte) (flag : Bool) :
    (writeResultThenFlag x result flag s).key = s.key := rfl

@[simp] theorem writeResultThenFlag_mem (x : RegIx) (result : Byte) (flag : Bool) :
    (writeResultThenFlag x result flag s).mem = s.mem := rfl

@[simp] theorem writeResultThenFlag_err (x : RegIx) (result : Byte) (flag : Bool) :
    (writeResultThenFlag x result flag s).err = s.err := rfl

@[simp] theorem writeResultThenFlag_errInfo (x : RegIx) (result : Byte) (flag : Bool) :
    (writeResultThenFlag x result flag s).errInfo = s.errInfo := rfl

@[simp] theorem writeResultThenFlag_rndSupply (x : RegIx) (result : Byte) (flag : Bool) :
    (writeResultThenFlag x result flag s).rndSupply = s.rndSupply := rfl

@[simp] theorem writeResultThenFlag_rndDraws (x : RegIx) (result : Byte) (flag : Bool) :
    (writeResultThenFlag x result flag s).rndDraws = s.rndDraws := rfl

@[simp] theorem writeResultThenFlag_keyAt (x : RegIx) (result : Byte) (flag : Bool) (q : RegIx) :
    (writeResultThenFlag x result flag s).keyAt q = s.keyAt q := rfl

@[simp] theorem writeResultThenFlag_pixel (x : RegIx) (result : Byte) (flag : Bool) (q : Fin 2048) :
    (writeResultThenFlag x result flag s).pixel q = s.pixel q := rfl

@[simp] theorem writeResultThenFlag_readMem (x : RegIx) (result : Byte) (flag : Bool) (q : Nat) :
    (writeResultThenFlag x result flag s).readMem q = s.readMem q := rfl

theorem flagByte_eq_one (f : Bool) : flagByte f = 1 ↔ f = true := by cases f <;> decide

theorem flagByte_eq_zero (f : Bool) : flagByte f = 0 ↔ f = false := by cases f <;> decide

theorem flagByte_le_one (f : Bool) : (flagByte f).toNat ≤ 1 := by cases f <;> decide

theorem carryOut_iff (a b : Byte) : carryOut a b = true ↔ a.toNat + b.toNat > 255 := decide_eq_true_iff

theorem strictlyGreater_iff (a b : Byte) : strictlyGreater a b = true ↔ a.toNat > b.toNat := decide_eq_true_iff

theorem lowBit_iff (a : Byte) : lowBit a = true ↔ a.toNat % 2 = 1 := by
  simp [lowBit, BitVec.getLsbD, Nat.testBit_zero]

theorem highBit_iff (a : Byte) : highBit a = true ↔ a.toNat ≥ 128 := by
  have ha := a.isLt
  simp only [highBit, BitVec.getLsbD, Nat.testBit_eq_decide_div_mod_eq, decide_eq_true_eq]
  omega

/-! ### Operand forms -/

@[simp] theorem zext12_toNat (nnn : Addr12) : (zext12 nnn).toNat = nnn.toNat := by
  have := nnn.isLt
  simp [zext12]
  omega

@[simp] theorem zext8_toNat (b : Byte) : (zext8 b).toNat = b.toNat := by
  have := b.isLt
  simp [zext8]
  omega

theorem blockFits_iff (base : Word) (last : Nat) : blockFits base last = true ↔ base.toNat + last ≤ 0xFFFF := by
  rw [blockFits, decide_eq_true_iff]

theorem fontAddress_toNat (b : Byte) : (fontAddress b).toNat = b.toNat * 5 := by
  have := b.isLt
  simp only [fontAddress, Config.glyphBytes, BitVec.toNat_ofNat]
  omega

theorem keyNumber_val (b : Byte) : (keyNumber b).val = b.toNat % 16 := by
  simp [keyNumber, regOfNibble, BitVec.extractLsb'_toNat]

theorem registersUpTo_length (x : RegIx) : (registersUpTo x s).length = x.val + 1 := by
  have := x.isLt
  simp [registersUpTo]

theorem registersUpTo_getElem (x k : RegIx) (h : k.val < (registersUpTo x s).length) :
    (registersUpTo x s)[k.val] = s.getV k := by
  simp [registersUpTo, State.getV]

/-- No key is down exactly when the wait finds none (R183). -/
theorem lowestKeyDown_eq_none : lowestKeyDown s = none ↔ ∀ k, s.keyAt k = false := by
  simp [lowestKeyDown, List.find?_eq_none]

/-- The wait finds the smallest key that is down (R183). -/
theorem lowestKeyDown_of_first {k : RegIx} (hk : s.keyAt k = true) (hlow : ∀ j < k, s.keyAt j = false) :
    lowestKeyDown s = some k := by
  rcases h : lowestKeyDown s with _ | j
  · exact absurd ((lowestKeyDown_eq_none s).1 h k) (by simp [hk])
  · obtain ⟨hj, as, bs, hs, hbefore⟩ := List.find?_eq_some_iff_append.1 h
    have hsorted : (List.finRange 16).Pairwise (· < ·) := by decide
    rw [hs] at hsorted
    have hmem : k ∈ as ++ j :: bs := hs ▸ List.mem_finRange k
    rcases List.mem_append.1 hmem with hin | hin
    · exact absurd hk (by simpa using hbefore k hin)
    · rcases List.mem_cons.1 hin with rfl | hin
      · rfl
      · have hlt : j < k := (List.pairwise_cons.1 (List.pairwise_append.1 hsorted).2.1).1 k hin
        exact absurd hj (by simp [hlow j hlt])

/-! ### Fetch (R43) -/

/-- A word placed at PC in a canonical memory is the word fetched. -/
theorem fetchWord_placeWord (op : Word) (hm : Memory.wf s.mem = true) (hpc : s.pc ≠ 0xFFFF) :
    (s.placeWord op).fetchWord = op := by
  have hlt : s.pc.toNat + (bytesOfWord op).length ≤ 65536 := by
    have h1 := s.pc.isLt
    have h2 : s.pc.toNat ≠ 65535 := fun h => hpc (BitVec.eq_of_toNat_eq h)
    simp [bytesOfWord]
    omega
  have h0 := Memory.read_writeBytes_inside hlt hm 0 (by simp [bytesOfWord])
  have h1 := Memory.read_writeBytes_inside hlt hm 1 (by simp [bytesOfWord])
  simp only [Nat.add_zero, bytesOfWord, List.getElem_cons_zero, List.getElem_cons_succ] at h0 h1
  simp only [State.fetchWord, State.placeWord, State.setMem_readMem, State.setMem_pc, bytesOfWord, h0, h1,
    wordOfBytes_hiByte_loByte]

end Sys2Proof.Machine
end

