-- ==== Sys2Proof/Laws/System.lean ====
section
/-!
SUPPORT. What a Step can be, said once, and what each field is after each host operation.
-/

namespace Sys2Proof.Machine

variable (s : State)

/-- The four things a Step can be (R100): the latched Step, the fetch fault, the illegal word, the execution of an instruction. -/
theorem step_cases :
    (s.err ≠ .none ∧ step s = .next s) ∨
    (s.err = .none ∧ s.pc = 0xFFFF ∧ step s = raisePc .outOfBounds s) ∨
    (s.err = .none ∧ s.pc ≠ 0xFFFF ∧ ∃ r, decodeWord s.fetchWord = .rejected r ∧ step s = raiseIllegal s.fetchWord s) ∨
    (s.err = .none ∧ s.pc ≠ 0xFFFF ∧ ∃ i, decodeWord s.fetchWord = .instr i ∧ step s = exec i s) := by
  unfold step stepCycle
  by_cases he : s.err = .none
  · by_cases hpc : s.pc = 0xFFFF
    · exact .inr (.inl ⟨he, hpc, by rw [if_neg (not_not.2 he), if_pos hpc]⟩)
    · rw [if_neg (not_not.2 he), if_neg hpc]
      cases hd : decodeWord s.fetchWord with
      | rejected r => exact .inr (.inr (.inl ⟨he, hpc, r, rfl, rfl⟩))
      | instr i => exact .inr (.inr (.inr ⟨he, hpc, i, rfl, rfl⟩))
  · exact .inl ⟨he, if_pos he⟩

/-! ### Tick (R214) -/

theorem countDown_toNat (b : Byte) : (countDown b).toNat = b.toNat - 1 := by
  unfold countDown
  split
  · subst_vars; rfl
  · have h0 : b.toNat ≠ 0 := fun h => ‹¬ b = 0› (BitVec.eq_of_toNat_eq h)
    have hb := b.isLt
    rw [BitVec.toNat_sub_of_le]
    · rfl
    · rw [BitVec.le_def, show (1 : Byte).toNat = 1 from rfl]; omega

/-! ### Fields after the host operations -/

@[simp] theorem State.tick_v : (s.tick).v = s.v := rfl
@[simp] theorem State.tick_regI : (s.tick).regI = s.regI := rfl
@[simp] theorem State.tick_pc : (s.tick).pc = s.pc := rfl
@[simp] theorem State.tick_sp : (s.tick).sp = s.sp := rfl
@[simp] theorem State.tick_stack : (s.tick).stack = s.stack := rfl
@[simp] theorem State.tick_dt : (s.tick).dt = countDown s.dt := rfl
@[simp] theorem State.tick_st : (s.tick).st = countDown s.st := rfl
@[simp] theorem State.tick_fb : (s.tick).fb = s.fb := rfl
@[simp] theorem State.tick_key : (s.tick).key = s.key := rfl
@[simp] theorem State.tick_mem : (s.tick).mem = s.mem := rfl
@[simp] theorem State.tick_err : (s.tick).err = s.err := rfl
@[simp] theorem State.tick_errInfo : (s.tick).errInfo = s.errInfo := rfl
@[simp] theorem State.tick_rndSupply : (s.tick).rndSupply = s.rndSupply := rfl
@[simp] theorem State.tick_rndDraws : (s.tick).rndDraws = s.rndDraws := rfl

@[simp] theorem State.keyWrite_v (k : RegIx) (down : Bool) : (s.keyWrite k down).v = s.v := rfl
@[simp] theorem State.keyWrite_regI (k : RegIx) (down : Bool) : (s.keyWrite k down).regI = s.regI := rfl
@[simp] theorem State.keyWrite_pc (k : RegIx) (down : Bool) : (s.keyWrite k down).pc = s.pc := rfl
@[simp] theorem State.keyWrite_sp (k : RegIx) (down : Bool) : (s.keyWrite k down).sp = s.sp := rfl
@[simp] theorem State.keyWrite_stack (k : RegIx) (down : Bool) : (s.keyWrite k down).stack = s.stack := rfl
@[simp] theorem State.keyWrite_dt (k : RegIx) (down : Bool) : (s.keyWrite k down).dt = s.dt := rfl
@[simp] theorem State.keyWrite_st (k : RegIx) (down : Bool) : (s.keyWrite k down).st = s.st := rfl
@[simp] theorem State.keyWrite_fb (k : RegIx) (down : Bool) : (s.keyWrite k down).fb = s.fb := rfl
@[simp] theorem State.keyWrite_key (k : RegIx) (down : Bool) : (s.keyWrite k down).key = s.key.set k.val down := rfl
@[simp] theorem State.keyWrite_mem (k : RegIx) (down : Bool) : (s.keyWrite k down).mem = s.mem := rfl
@[simp] theorem State.keyWrite_err (k : RegIx) (down : Bool) : (s.keyWrite k down).err = s.err := rfl
@[simp] theorem State.keyWrite_errInfo (k : RegIx) (down : Bool) : (s.keyWrite k down).errInfo = s.errInfo := rfl
@[simp] theorem State.keyWrite_rndSupply (k : RegIx) (down : Bool) : (s.keyWrite k down).rndSupply = s.rndSupply := rfl
@[simp] theorem State.keyWrite_rndDraws (k : RegIx) (down : Bool) : (s.keyWrite k down).rndDraws = s.rndDraws := rfl

@[simp] theorem State.supplyRandom_v (b : Byte) : (s.supplyRandom b).v = s.v := rfl
@[simp] theorem State.supplyRandom_regI (b : Byte) : (s.supplyRandom b).regI = s.regI := rfl
@[simp] theorem State.supplyRandom_pc (b : Byte) : (s.supplyRandom b).pc = s.pc := rfl
@[simp] theorem State.supplyRandom_sp (b : Byte) : (s.supplyRandom b).sp = s.sp := rfl
@[simp] theorem State.supplyRandom_stack (b : Byte) : (s.supplyRandom b).stack = s.stack := rfl
@[simp] theorem State.supplyRandom_dt (b : Byte) : (s.supplyRandom b).dt = s.dt := rfl
@[simp] theorem State.supplyRandom_st (b : Byte) : (s.supplyRandom b).st = s.st := rfl
@[simp] theorem State.supplyRandom_fb (b : Byte) : (s.supplyRandom b).fb = s.fb := rfl
@[simp] theorem State.supplyRandom_key (b : Byte) : (s.supplyRandom b).key = s.key := rfl
@[simp] theorem State.supplyRandom_mem (b : Byte) : (s.supplyRandom b).mem = s.mem := rfl
@[simp] theorem State.supplyRandom_err (b : Byte) : (s.supplyRandom b).err = s.err := rfl
@[simp] theorem State.supplyRandom_errInfo (b : Byte) : (s.supplyRandom b).errInfo = s.errInfo := rfl
@[simp] theorem State.supplyRandom_rndSupply (b : Byte) : (s.supplyRandom b).rndSupply = s.rndSupply ++ [b] := rfl
@[simp] theorem State.supplyRandom_rndDraws (b : Byte) : (s.supplyRandom b).rndDraws = s.rndDraws := rfl

@[simp] theorem State.resetOperation_v : s.resetOperation.v = State.reset.v := rfl
@[simp] theorem State.resetOperation_regI : s.resetOperation.regI = State.reset.regI := rfl
@[simp] theorem State.resetOperation_pc : s.resetOperation.pc = State.reset.pc := rfl
@[simp] theorem State.resetOperation_sp : s.resetOperation.sp = State.reset.sp := rfl
@[simp] theorem State.resetOperation_stack : s.resetOperation.stack = s.stack := rfl
@[simp] theorem State.resetOperation_dt : s.resetOperation.dt = State.reset.dt := rfl
@[simp] theorem State.resetOperation_st : s.resetOperation.st = State.reset.st := rfl
@[simp] theorem State.resetOperation_fb : s.resetOperation.fb = State.reset.fb := rfl
@[simp] theorem State.resetOperation_key : s.resetOperation.key = State.reset.key := rfl
@[simp] theorem State.resetOperation_mem : s.resetOperation.mem = State.reset.mem := rfl
@[simp] theorem State.resetOperation_err : s.resetOperation.err = State.reset.err := rfl
@[simp] theorem State.resetOperation_errInfo : s.resetOperation.errInfo = State.reset.errInfo := rfl
@[simp] theorem State.resetOperation_rndSupply : s.resetOperation.rndSupply = s.rndSupply := rfl
@[simp] theorem State.resetOperation_rndDraws : s.resetOperation.rndDraws = s.rndDraws := rfl

/-! ### Load (R50) -/

theorem maxImageLength_eq : maxImageLength = 65024 := by decide

theorem State.load_accepted (image : List Byte) (h : image.length ≤ 65024) :
    s.load image = s.setMem (Memory.writeBytes s.mem 0x200 image) := by
  rw [State.load, if_pos (maxImageLength_eq ▸ h)]; rfl

theorem State.load_refused (image : List Byte) (h : 65024 < image.length) : s.load image = s := by
  rw [State.load, if_neg (maxImageLength_eq ▸ Nat.not_le.2 h)]

/-- Load keeps the canonical form of memory. -/
theorem State.load_mem_wf (image : List Byte) (hm : Memory.wf s.mem = true) : Memory.wf (s.load image).mem = true := by
  rcases Nat.lt_or_ge 65024 image.length with h | h
  · rwa [State.load_refused s image h]
  · rw [State.load_accepted s image h]
    exact Memory.wf_writeBytes (by omega) hm

end Sys2Proof.Machine
end

