-- ==== Sys2Proof/Laws/Frames.lean ====
section
/-!
SUPPORT. Frames: how they compose, the frame of each update of the state, and the PC's move at the end of an instruction. A frame of
a meaning is put together from these without unfolding a record.
-/

namespace Sys2Proof.Machine

/-! ### Composition -/

theorem OnlyChanges.refl (allowed : Piece → Prop) (s : State) : OnlyChanges allowed s s := by
  intro p _; cases p <;> rfl

theorem OnlyChanges.trans {allowed : Piece → Prop} {s t u : State} (h : OnlyChanges allowed s t)
    (h' : OnlyChanges allowed t u) : OnlyChanges allowed s u := by
  intro p hp
  have a := h p hp
  have b := h' p hp
  cases p <;> exact Eq.trans b a

theorem OnlyChanges.mono {allowed wider : Piece → Prop} {s t : State} (h : OnlyChanges allowed s t)
    (hw : ∀ p, allowed p → wider p) : OnlyChanges wider s t :=
  fun p hp => h p (fun ha => hp (hw p ha))

/-! ### The frame of each update -/

variable (s : State)

theorem setPc_frame (a : Word) : OnlyChanges (· = .pc) s (s.setPc a) := by
  intro p hp; cases p <;> first | rfl | exact absurd rfl hp

theorem setI_frame (a : Word) : OnlyChanges (· = .regI) s (s.setI a) := by
  intro p hp; cases p <;> first | rfl | exact absurd rfl hp

theorem setSp_frame (n : BitVec 5) : OnlyChanges (· = .sp) s (s.setSp n) := by
  intro p hp; cases p <;> first | rfl | exact absurd rfl hp

theorem setDt_frame (b : Byte) : OnlyChanges (· = .dt) s (s.setDt b) := by
  intro p hp; cases p <;> first | rfl | exact absurd rfl hp

theorem setSt_frame (b : Byte) : OnlyChanges (· = .st) s (s.setSt b) := by
  intro p hp; cases p <;> first | rfl | exact absurd rfl hp

theorem setV_frame (x : RegIx) (b : Byte) : OnlyChanges (· = .v x) s (s.setV x b) := by
  intro p hp
  cases p with
  | v r => exact s.setV_getV_ne (fun h => hp (congrArg Piece.v h)) b
  | _ => rfl

/-- A bulk register write changes the registers whose new value differs. -/
theorem setAllV_frame (f : RegIx → Byte) : OnlyChanges (fun p => ∃ k, p = .v k ∧ f k ≠ s.getV k) s (s.setAllV f) := by
  intro p hp
  cases p with
  | v r =>
    refine (s.setAllV_getV f r).trans ?_
    by_contra hne
    exact hp ⟨r, rfl, hne⟩
  | _ => simp [Piece.SameIn]

theorem setStackAt_frame (k : Fin 30) (a : Word) : OnlyChanges (· = .stack k) s (s.setStackAt k a) := by
  intro p hp
  cases p with
  | stack j =>
    have hne : k.val ≠ j.val := fun h => hp (congrArg Piece.stack (Fin.ext h.symm))
    exact Vector.getElem_set_ne k.isLt j.isLt hne
  | _ => rfl

theorem setKeyAt_frame (k : RegIx) (down : Bool) : OnlyChanges (· = .key k) s (s.setKeyAt k down) := by
  intro p hp
  cases p with
  | key q => exact s.setKeyAt_keyAt_ne (fun h => hp (congrArg Piece.key h)) down
  | _ => rfl

/-- A framebuffer write changes the cells whose new value differs. -/
theorem setFb_frame (f : Framebuffer) :
    OnlyChanges (fun p => ∃ k, p = .pixel k ∧ (s.setFb f).pixel k ≠ s.pixel k) s (s.setFb f) := by
  intro p hp
  cases p with
  | pixel k =>
    by_contra hne
    exact hp ⟨k, rfl, hne⟩
  | _ => rfl

/-- A write of consecutive bytes changes those bytes at most. -/
theorem writeBytes_frame (base : Nat) (bs : List Byte) :
    OnlyChanges (fun p => ∃ k < bs.length, p = .mem (base + k)) s (s.setMem (Memory.writeBytes s.mem base bs)) := by
  intro p hp
  cases p with
  | mem a =>
    refine Memory.read_writeBytes_outside ?_
    by_contra hne
    exact hp ⟨a - base, by omega, congrArg Piece.mem (by omega)⟩
  | _ => rfl

theorem latch_frame (e : Err) (info : ErrInfo) : OnlyChanges (fun p => p = .err ∨ p = .errInfo) s (s.latch e info) := by
  intro p hp; cases p <;> first | rfl | exact absurd (.inl rfl) hp | exact absurd (.inr rfl) hp

theorem consumeRandom_frame : OnlyChanges (fun p => p = .rndSupply ∨ p = .rndDraws) s s.consumeRandom := by
  intro p hp; cases p <;> first | rfl | exact absurd (.inl rfl) hp | exact absurd (.inr rfl) hp

/-- Result and flag: V[x] and VF at most (R132). -/
theorem writeResultThenFlag_frame (x : RegIx) (result : Byte) (flag : Bool) :
    OnlyChanges (fun p => p = .v x ∨ p = .v vf) s (writeResultThenFlag x result flag s) :=
  ((setV_frame s x result).mono fun _ => .inl).trans ((setV_frame _ vf _).mono fun _ => .inr)

/-- An instruction's frame is that of its writes, and the PC. -/
theorem OnlyChanges.then_setPc {allowed : Piece → Prop} {s u : State} (h : OnlyChanges allowed s u) (a : Word) :
    OnlyChanges (fun p => p = .pc ∨ allowed p) s (u.setPc a) :=
  (h.mono fun _ => .inr).trans ((setPc_frame u a).mono fun _ => .inl)

/-! ### The PC's move (R14) -/

theorem advancesBy_setPc (u : State) (d : Nat) : AdvancesBy d s (u.setPc (s.pc + BitVec.ofNat 16 d)) := by
  simp [AdvancesBy, BitVec.toNat_add]

/-- The move at the end of an instruction whose writes leave PC alone. -/
theorem advancesBy_finish {u : State} (h : u.pc = s.pc) : AdvancesBy 2 s (u.setPc (u.pc + 2)) := by
  rw [h]; exact advancesBy_setPc s u 2

/-- The move of a skip (R14). -/
theorem advancesBy_skip (taken : Bool) :
    AdvancesBy (if taken then 4 else 2) s (s.setPc (if taken then s.pc + 4 else s.pc + 2)) := by
  cases taken
  · exact advancesBy_setPc s s 2
  · exact advancesBy_setPc s s 4

end Sys2Proof.Machine
end

