-- ==== Sys2Proof/Laws/Index.lean ====
section
/-!
SUPPORT. The two outcomes of each I-based access, within and beyond the address space (spec/42_index_and_memory.md R156).
-/

namespace Sys2Proof.Machine

variable (x y : RegIx) (n : Nibble) (s : State)

theorem blockFits_of_le {base : Word} {last : Nat} (h : base.toNat + last ≤ 0xFFFF) : blockFits base last = true :=
  (blockFits_iff base last).2 h

theorem blockFits_of_gt {base : Word} {last : Nat} (h : 0xFFFF < base.toNat + last) : blockFits base last = false :=
  Bool.eq_false_iff.2 fun hf => absurd ((blockFits_iff base last).1 hf) (Nat.not_le.2 h)

@[simp] theorem bcdDigits_length (b : Byte) : (bcdDigits b).length = 3 := rfl

theorem bcdDigits_toNat (b : Byte) :
    (bcdDigits b).map BitVec.toNat = [b.toNat / 100, b.toNat / 10 % 10, b.toNat % 10] := by
  have hb := b.isLt
  have h1 : b.toNat / 100 % 256 = b.toNat / 100 := Nat.mod_eq_of_lt (by omega)
  have h2 : b.toNat / 10 % 10 % 256 = b.toNat / 10 % 10 := Nat.mod_eq_of_lt (by omega)
  have h3 : b.toNat % 10 % 256 = b.toNat % 10 := Nat.mod_eq_of_lt (by omega)
  simp [bcdDigits, h1, h2, h3]

theorem execLdBVx_fits (h : s.regI.toNat + 2 ≤ 0xFFFF) :
    execLdBVx x s = finish (s.setMem (Memory.writeBytes s.mem s.regI.toNat (bcdDigits (s.getV x)))) := by
  rw [execLdBVx, if_pos (blockFits_of_le h)]

theorem execLdBVx_outOfBounds (h : 0xFFFF < s.regI.toNat + 2) : execLdBVx x s = raisePc .outOfBounds s := by
  rw [execLdBVx, blockFits_of_gt h]; rfl

theorem execLdMemVx_fits (h : s.regI.toNat + x.val ≤ 0xFFFF) :
    execLdMemVx x s = finish (s.setMem (Memory.writeBytes s.mem s.regI.toNat (registersUpTo x s))) := by
  rw [execLdMemVx, if_pos (blockFits_of_le h)]

theorem execLdMemVx_outOfBounds (h : 0xFFFF < s.regI.toNat + x.val) : execLdMemVx x s = raisePc .outOfBounds s := by
  rw [execLdMemVx, blockFits_of_gt h]; rfl

theorem execLdVxMem_fits (h : s.regI.toNat + x.val ≤ 0xFFFF) :
    execLdVxMem x s =
      finish (s.setAllV (fun k => if k ≤ x then s.readMem (s.regI.toNat + k.val) else s.getV k)) := by
  rw [execLdVxMem, if_pos (blockFits_of_le h)]

theorem execLdVxMem_outOfBounds (h : 0xFFFF < s.regI.toNat + x.val) : execLdVxMem x s = raisePc .outOfBounds s := by
  rw [execLdVxMem, blockFits_of_gt h]; rfl

/-- The framebuffer and the collision flag DRW computes (R171). -/
def drawn (x y : RegIx) (n : Nibble) (s : State) : Framebuffer × Bool :=
  drawRows (s.getV x).toNat (s.getV y).toNat 0 (Memory.readBytes s.mem s.regI.toNat n.toNat) (s.fb, false)

theorem execDrwVxVyN_fits (h : n = 0 ∨ s.regI.toNat + (n.toNat - 1) ≤ 0xFFFF) :
    execDrwVxVyN x y n s = finish ((s.setFb (drawn x y n s).1).setV vf (flagByte (drawn x y n s).2)) := by
  have hc : (n = 0 || blockFits s.regI (n.toNat - 1)) = true := by
    rw [Bool.or_eq_true, decide_eq_true_iff]
    exact h.imp_right blockFits_of_le
  rw [execDrwVxVyN, if_pos hc]; rfl

theorem execDrwVxVyN_outOfBounds (h0 : n ≠ 0) (h : 0xFFFF < s.regI.toNat + (n.toNat - 1)) :
    execDrwVxVyN x y n s = raisePc .outOfBounds s := by
  have hc : (n = 0 || blockFits s.regI (n.toNat - 1)) = false := by
    rw [Bool.or_eq_false_iff, decide_eq_false_iff_not]
    exact ⟨h0, blockFits_of_gt h⟩
  rw [execDrwVxVyN, hc]; rfl

end Sys2Proof.Machine
end

