-- ==== Sys2Proof/Laws/PerInstr.lean ====
section
/-!
SUPPORT. Statements for all instructions, one lemma per constructor. Family RowMatch: the word of a well-formed instruction is
selected by the row of the opcode map (spec/30_encoding.md R65) that carries its mnemonic.
-/

namespace Sys2Proof

theorem wordNNN_and_mask (p : Nibble) (nnn : Addr12) : wordNNN p nnn &&& 0xF000 = wordNNN p 0 := by
  have h : (0xF000 : Word) = (0xF#4 ++ 0#12 : BitVec (4 + 12)) := by decide
  have hp : p &&& 0xF#4 = p := BitVec.and_allOnes
  calc wordNNN p nnn &&& 0xF000 = (p &&& 0xF#4) ++ (nnn &&& 0#12) := by rw [h]; exact BitVec.and_append
    _ = wordNNN p 0 := by rw [hp, BitVec.and_zero]; rfl

theorem wordXNN_and (p : Nibble) (x : RegIx) (nn m : Byte) :
    wordXNN p x nn &&& (0xF#4 ++ 0#4 ++ m : BitVec (4 + 4 + 8)) = wordXNN p 0 (nn &&& m) := by
  have hp : p &&& 0xF#4 = p := BitVec.and_allOnes
  calc wordXNN p x nn &&& (0xF#4 ++ 0#4 ++ m : BitVec (4 + 4 + 8))
      = ((p ++ nibbleOfReg x) &&& (0xF#4 ++ 0#4)) ++ (nn &&& m) := BitVec.and_append
    _ = ((p &&& 0xF#4) ++ (nibbleOfReg x &&& 0#4)) ++ (nn &&& m) := by rw [BitVec.and_append]
    _ = wordXNN p 0 (nn &&& m) := by rw [hp, BitVec.and_zero]; rfl

theorem wordXNN_and_primary (p : Nibble) (x : RegIx) (nn : Byte) : wordXNN p x nn &&& 0xF000 = wordXNN p 0 0 := by
  have h := wordXNN_and p x nn 0x00
  rwa [show nn &&& 0x00 = 0 from BitVec.and_zero] at h

theorem wordXNN_and_lowByte (p : Nibble) (x : RegIx) (nn : Byte) : wordXNN p x nn &&& 0xF0FF = wordXNN p 0 nn := by
  have h := wordXNN_and p x nn 0xFF
  rwa [show nn &&& 0xFF = nn from BitVec.and_allOnes] at h

theorem wordXYN_and (p : Nibble) (x y : RegIx) (n m : Nibble) :
    wordXYN p x y n &&& (0xF#4 ++ 0#4 ++ 0#4 ++ m : BitVec (4 + 4 + 4 + 4)) = wordXYN p 0 0 (n &&& m) := by
  have hp : p &&& 0xF#4 = p := BitVec.and_allOnes
  calc wordXYN p x y n &&& (0xF#4 ++ 0#4 ++ 0#4 ++ m : BitVec (4 + 4 + 4 + 4))
      = ((p ++ nibbleOfReg x ++ nibbleOfReg y) &&& (0xF#4 ++ 0#4 ++ 0#4)) ++ (n &&& m) := BitVec.and_append
    _ = ((p &&& 0xF#4) ++ (nibbleOfReg x &&& 0#4) ++ (nibbleOfReg y &&& 0#4)) ++ (n &&& m) := by
      rw [BitVec.and_append, BitVec.and_append]
    _ = wordXYN p 0 0 (n &&& m) := by rw [hp, BitVec.and_zero, BitVec.and_zero]; rfl

theorem wordXYN_and_primary (p : Nibble) (x y : RegIx) (n : Nibble) : wordXYN p x y n &&& 0xF000 = wordXYN p 0 0 0 := by
  have h := wordXYN_and p x y n 0x0
  rwa [show n &&& 0x0 = 0 from BitVec.and_zero] at h

theorem wordXYN_and_lowNibble (p : Nibble) (x y : RegIx) (n : Nibble) :
    wordXYN p x y n &&& 0xF00F = wordXYN p 0 0 n := by
  have h := wordXYN_and p x y n 0xF
  rwa [show n &&& 0xF = n from BitVec.and_allOnes] at h

/-- The word of `i` is selected by the row of its mnemonic. -/
def Laws.RowMatch.Statement (i : Instr) : Prop :=
  ∃ r ∈ opcodeMap, r.mnemonic = i.mnemonic ∧ (i.wellFormed = true → r.selects (encode i))

theorem Laws.RowMatch.sys (nnn : Addr12) : Laws.RowMatch.Statement (.sys nnn) :=
  ⟨⟨"SYS_nnn", 0xF000, 0x0000, [0x00E0, 0x00EE]⟩, by simp [opcodeMap, opcodeRowsA, opcodeRowsB, opcodeRowsC], rfl,
    fun h => ⟨(wordNNN_and_mask 0x0 nnn).trans (by decide), by
      simp only [Instr.wellFormed, sysOperandOk, Bool.and_eq_true, bne_iff_ne, ne_eq] at h
      have hn (a : Addr12) (ha : wordNNN 0x0 nnn = wordNNN 0x0 a) : nnn = a := by
        simpa using congrArg fieldNNN ha
      simp only [encode, List.mem_cons, List.not_mem_nil, or_false, not_or]
      exact ⟨fun hw => h.1 (hn 0x0E0 (hw.trans (by decide))), fun hw => h.2 (hn 0x0EE (hw.trans (by decide)))⟩⟩⟩

theorem Laws.RowMatch.cls : Laws.RowMatch.Statement (.cls) :=
  ⟨⟨"CLS", 0xFFFF, 0x00E0, []⟩, by simp [opcodeMap, opcodeRowsA, opcodeRowsB, opcodeRowsC], rfl,
    fun _ => ⟨by decide, by simp⟩⟩

theorem Laws.RowMatch.ret : Laws.RowMatch.Statement (.ret) :=
  ⟨⟨"RET", 0xFFFF, 0x00EE, []⟩, by simp [opcodeMap, opcodeRowsA, opcodeRowsB, opcodeRowsC], rfl,
    fun _ => ⟨by decide, by simp⟩⟩

theorem Laws.RowMatch.jp (nnn : Addr12) : Laws.RowMatch.Statement (.jp nnn) :=
  ⟨⟨"JP_nnn", 0xF000, 0x1000, []⟩, by simp [opcodeMap, opcodeRowsA, opcodeRowsB, opcodeRowsC], rfl,
    fun _ => ⟨(wordNNN_and_mask 0x1 nnn).trans (by decide), by simp⟩⟩

theorem Laws.RowMatch.call (nnn : Addr12) : Laws.RowMatch.Statement (.call nnn) :=
  ⟨⟨"CALL_nnn", 0xF000, 0x2000, []⟩, by simp [opcodeMap, opcodeRowsA, opcodeRowsB, opcodeRowsC], rfl,
    fun _ => ⟨(wordNNN_and_mask 0x2 nnn).trans (by decide), by simp⟩⟩

theorem Laws.RowMatch.seVxNn (x : RegIx) (nn : Byte) : Laws.RowMatch.Statement (.seVxNn x nn) :=
  ⟨⟨"SE_Vx_nn", 0xF000, 0x3000, []⟩, by simp [opcodeMap, opcodeRowsA, opcodeRowsB, opcodeRowsC], rfl,
    fun _ => ⟨(wordXNN_and_primary 0x3 x nn).trans (by decide), by simp⟩⟩

theorem Laws.RowMatch.sneVxNn (x : RegIx) (nn : Byte) : Laws.RowMatch.Statement (.sneVxNn x nn) :=
  ⟨⟨"SNE_Vx_nn", 0xF000, 0x4000, []⟩, by simp [opcodeMap, opcodeRowsA, opcodeRowsB, opcodeRowsC], rfl,
    fun _ => ⟨(wordXNN_and_primary 0x4 x nn).trans (by decide), by simp⟩⟩

theorem Laws.RowMatch.seVxVy (x y : RegIx) : Laws.RowMatch.Statement (.seVxVy x y) :=
  ⟨⟨"SE_Vx_Vy", 0xF00F, 0x5000, []⟩, by simp [opcodeMap, opcodeRowsA, opcodeRowsB, opcodeRowsC], rfl,
    fun _ => ⟨(wordXYN_and_lowNibble 0x5 x y 0x0).trans (by decide), by simp⟩⟩

theorem Laws.RowMatch.ldVxNn (x : RegIx) (nn : Byte) : Laws.RowMatch.Statement (.ldVxNn x nn) :=
  ⟨⟨"LD_Vx_nn", 0xF000, 0x6000, []⟩, by simp [opcodeMap, opcodeRowsA, opcodeRowsB, opcodeRowsC], rfl,
    fun _ => ⟨(wordXNN_and_primary 0x6 x nn).trans (by decide), by simp⟩⟩

theorem Laws.RowMatch.addVxNn (x : RegIx) (nn : Byte) : Laws.RowMatch.Statement (.addVxNn x nn) :=
  ⟨⟨"ADD_Vx_nn", 0xF000, 0x7000, []⟩, by simp [opcodeMap, opcodeRowsA, opcodeRowsB, opcodeRowsC], rfl,
    fun _ => ⟨(wordXNN_and_primary 0x7 x nn).trans (by decide), by simp⟩⟩

theorem Laws.RowMatch.ldVxVy (x y : RegIx) : Laws.RowMatch.Statement (.ldVxVy x y) :=
  ⟨⟨"LD_Vx_Vy", 0xF00F, 0x8000, []⟩, by simp [opcodeMap, opcodeRowsA, opcodeRowsB, opcodeRowsC], rfl,
    fun _ => ⟨(wordXYN_and_lowNibble 0x8 x y 0x0).trans (by decide), by simp⟩⟩

theorem Laws.RowMatch.orVxVy (x y : RegIx) : Laws.RowMatch.Statement (.orVxVy x y) :=
  ⟨⟨"OR_Vx_Vy", 0xF00F, 0x8001, []⟩, by simp [opcodeMap, opcodeRowsA, opcodeRowsB, opcodeRowsC], rfl,
    fun _ => ⟨(wordXYN_and_lowNibble 0x8 x y 0x1).trans (by decide), by simp⟩⟩

theorem Laws.RowMatch.andVxVy (x y : RegIx) : Laws.RowMatch.Statement (.andVxVy x y) :=
  ⟨⟨"AND_Vx_Vy", 0xF00F, 0x8002, []⟩, by simp [opcodeMap, opcodeRowsA, opcodeRowsB, opcodeRowsC], rfl,
    fun _ => ⟨(wordXYN_and_lowNibble 0x8 x y 0x2).trans (by decide), by simp⟩⟩

theorem Laws.RowMatch.xorVxVy (x y : RegIx) : Laws.RowMatch.Statement (.xorVxVy x y) :=
  ⟨⟨"XOR_Vx_Vy", 0xF00F, 0x8003, []⟩, by simp [opcodeMap, opcodeRowsA, opcodeRowsB, opcodeRowsC], rfl,
    fun _ => ⟨(wordXYN_and_lowNibble 0x8 x y 0x3).trans (by decide), by simp⟩⟩

theorem Laws.RowMatch.addVxVy (x y : RegIx) : Laws.RowMatch.Statement (.addVxVy x y) :=
  ⟨⟨"ADD_Vx_Vy", 0xF00F, 0x8004, []⟩, by simp [opcodeMap, opcodeRowsA, opcodeRowsB, opcodeRowsC], rfl,
    fun _ => ⟨(wordXYN_and_lowNibble 0x8 x y 0x4).trans (by decide), by simp⟩⟩

theorem Laws.RowMatch.subVxVy (x y : RegIx) : Laws.RowMatch.Statement (.subVxVy x y) :=
  ⟨⟨"SUB_Vx_Vy", 0xF00F, 0x8005, []⟩, by simp [opcodeMap, opcodeRowsA, opcodeRowsB, opcodeRowsC], rfl,
    fun _ => ⟨(wordXYN_and_lowNibble 0x8 x y 0x5).trans (by decide), by simp⟩⟩

theorem Laws.RowMatch.shrVx (x y : RegIx) : Laws.RowMatch.Statement (.shrVx x y) :=
  ⟨⟨"SHR_Vx", 0xF00F, 0x8006, []⟩, by simp [opcodeMap, opcodeRowsA, opcodeRowsB, opcodeRowsC], rfl,
    fun _ => ⟨(wordXYN_and_lowNibble 0x8 x y 0x6).trans (by decide), by simp⟩⟩

theorem Laws.RowMatch.subnVxVy (x y : RegIx) : Laws.RowMatch.Statement (.subnVxVy x y) :=
  ⟨⟨"SUBN_Vx_Vy", 0xF00F, 0x8007, []⟩, by simp [opcodeMap, opcodeRowsA, opcodeRowsB, opcodeRowsC], rfl,
    fun _ => ⟨(wordXYN_and_lowNibble 0x8 x y 0x7).trans (by decide), by simp⟩⟩

theorem Laws.RowMatch.shlVx (x y : RegIx) : Laws.RowMatch.Statement (.shlVx x y) :=
  ⟨⟨"SHL_Vx", 0xF00F, 0x800E, []⟩, by simp [opcodeMap, opcodeRowsA, opcodeRowsB, opcodeRowsC], rfl,
    fun _ => ⟨(wordXYN_and_lowNibble 0x8 x y 0xE).trans (by decide), by simp⟩⟩

theorem Laws.RowMatch.sneVxVy (x y : RegIx) : Laws.RowMatch.Statement (.sneVxVy x y) :=
  ⟨⟨"SNE_Vx_Vy", 0xF00F, 0x9000, []⟩, by simp [opcodeMap, opcodeRowsA, opcodeRowsB, opcodeRowsC], rfl,
    fun _ => ⟨(wordXYN_and_lowNibble 0x9 x y 0x0).trans (by decide), by simp⟩⟩

theorem Laws.RowMatch.ldINnn (nnn : Addr12) : Laws.RowMatch.Statement (.ldINnn nnn) :=
  ⟨⟨"LD_I_nnn", 0xF000, 0xA000, []⟩, by simp [opcodeMap, opcodeRowsA, opcodeRowsB, opcodeRowsC], rfl,
    fun _ => ⟨(wordNNN_and_mask 0xA nnn).trans (by decide), by simp⟩⟩

theorem Laws.RowMatch.jpV0Nnn (nnn : Addr12) : Laws.RowMatch.Statement (.jpV0Nnn nnn) :=
  ⟨⟨"JP_V0_nnn", 0xF000, 0xB000, []⟩, by simp [opcodeMap, opcodeRowsA, opcodeRowsB, opcodeRowsC], rfl,
    fun _ => ⟨(wordNNN_and_mask 0xB nnn).trans (by decide), by simp⟩⟩

theorem Laws.RowMatch.rndVxNn (x : RegIx) (nn : Byte) : Laws.RowMatch.Statement (.rndVxNn x nn) :=
  ⟨⟨"RND_Vx_nn", 0xF000, 0xC000, []⟩, by simp [opcodeMap, opcodeRowsA, opcodeRowsB, opcodeRowsC], rfl,
    fun _ => ⟨(wordXNN_and_primary 0xC x nn).trans (by decide), by simp⟩⟩

theorem Laws.RowMatch.drwVxVyN (x y : RegIx) (n : Nibble) : Laws.RowMatch.Statement (.drwVxVyN x y n) :=
  ⟨⟨"DRW_Vx_Vy_n", 0xF000, 0xD000, []⟩, by simp [opcodeMap, opcodeRowsA, opcodeRowsB, opcodeRowsC], rfl,
    fun _ => ⟨(wordXYN_and_primary 0xD x y n).trans (by decide), by simp⟩⟩

theorem Laws.RowMatch.skpVx (x : RegIx) : Laws.RowMatch.Statement (.skpVx x) :=
  ⟨⟨"SKP_Vx", 0xF0FF, 0xE09E, []⟩, by simp [opcodeMap, opcodeRowsA, opcodeRowsB, opcodeRowsC], rfl,
    fun _ => ⟨(wordXNN_and_lowByte 0xE x 0x9E).trans (by decide), by simp⟩⟩

theorem Laws.RowMatch.sknpVx (x : RegIx) : Laws.RowMatch.Statement (.sknpVx x) :=
  ⟨⟨"SKNP_Vx", 0xF0FF, 0xE0A1, []⟩, by simp [opcodeMap, opcodeRowsA, opcodeRowsB, opcodeRowsC], rfl,
    fun _ => ⟨(wordXNN_and_lowByte 0xE x 0xA1).trans (by decide), by simp⟩⟩

theorem Laws.RowMatch.ldVxDt (x : RegIx) : Laws.RowMatch.Statement (.ldVxDt x) :=
  ⟨⟨"LD_Vx_DT", 0xF0FF, 0xF007, []⟩, by simp [opcodeMap, opcodeRowsA, opcodeRowsB, opcodeRowsC], rfl,
    fun _ => ⟨(wordXNN_and_lowByte 0xF x 0x07).trans (by decide), by simp⟩⟩

theorem Laws.RowMatch.ldVxK (x : RegIx) : Laws.RowMatch.Statement (.ldVxK x) :=
  ⟨⟨"LD_Vx_K", 0xF0FF, 0xF00A, []⟩, by simp [opcodeMap, opcodeRowsA, opcodeRowsB, opcodeRowsC], rfl,
    fun _ => ⟨(wordXNN_and_lowByte 0xF x 0x0A).trans (by decide), by simp⟩⟩

theorem Laws.RowMatch.ldDtVx (x : RegIx) : Laws.RowMatch.Statement (.ldDtVx x) :=
  ⟨⟨"LD_DT_Vx", 0xF0FF, 0xF015, []⟩, by simp [opcodeMap, opcodeRowsA, opcodeRowsB, opcodeRowsC], rfl,
    fun _ => ⟨(wordXNN_and_lowByte 0xF x 0x15).trans (by decide), by simp⟩⟩

theorem Laws.RowMatch.ldStVx (x : RegIx) : Laws.RowMatch.Statement (.ldStVx x) :=
  ⟨⟨"LD_ST_Vx", 0xF0FF, 0xF018, []⟩, by simp [opcodeMap, opcodeRowsA, opcodeRowsB, opcodeRowsC], rfl,
    fun _ => ⟨(wordXNN_and_lowByte 0xF x 0x18).trans (by decide), by simp⟩⟩

theorem Laws.RowMatch.addIVx (x : RegIx) : Laws.RowMatch.Statement (.addIVx x) :=
  ⟨⟨"ADD_I_Vx", 0xF0FF, 0xF01E, []⟩, by simp [opcodeMap, opcodeRowsA, opcodeRowsB, opcodeRowsC], rfl,
    fun _ => ⟨(wordXNN_and_lowByte 0xF x 0x1E).trans (by decide), by simp⟩⟩

theorem Laws.RowMatch.ldFVx (x : RegIx) : Laws.RowMatch.Statement (.ldFVx x) :=
  ⟨⟨"LD_F_Vx", 0xF0FF, 0xF029, []⟩, by simp [opcodeMap, opcodeRowsA, opcodeRowsB, opcodeRowsC], rfl,
    fun _ => ⟨(wordXNN_and_lowByte 0xF x 0x29).trans (by decide), by simp⟩⟩

theorem Laws.RowMatch.ldBVx (x : RegIx) : Laws.RowMatch.Statement (.ldBVx x) :=
  ⟨⟨"LD_B_Vx", 0xF0FF, 0xF033, []⟩, by simp [opcodeMap, opcodeRowsA, opcodeRowsB, opcodeRowsC], rfl,
    fun _ => ⟨(wordXNN_and_lowByte 0xF x 0x33).trans (by decide), by simp⟩⟩

theorem Laws.RowMatch.ldMemVx (x : RegIx) : Laws.RowMatch.Statement (.ldMemVx x) :=
  ⟨⟨"LD__I__Vx", 0xF0FF, 0xF055, []⟩, by simp [opcodeMap, opcodeRowsA, opcodeRowsB, opcodeRowsC], rfl,
    fun _ => ⟨(wordXNN_and_lowByte 0xF x 0x55).trans (by decide), by simp⟩⟩

theorem Laws.RowMatch.ldVxMem (x : RegIx) : Laws.RowMatch.Statement (.ldVxMem x) :=
  ⟨⟨"LD_Vx__I", 0xF0FF, 0xF065, []⟩, by simp [opcodeMap, opcodeRowsA, opcodeRowsB, opcodeRowsC], rfl,
    fun _ => ⟨(wordXNN_and_lowByte 0xF x 0x65).trans (by decide), by simp⟩⟩

end Sys2Proof
end

