-- ==== Sys2Proof/Tests/Slice0.lean ====
section
/-!
SUPPORT. Tests: the check of WellFormed, the decoding of words written out from R65's patterns, single steps whose expected values are
the vectors of spec/95_test_vectors.md (each test names its vector), and for every obligation with hypotheses a witness that meets them.
-/

namespace Sys2Proof.Tests

open Sys2Proof Sys2Proof.Machine

/-! ### Helpers -/

/-- The outcome is a next state that passes the check. -/
def leads (o : Result) (check : State → Bool) : Bool :=
  match o with
  | .next t => check t
  | .fault _ => false
  | .refused _ => false

/-- Registers set in the power-on state. -/
def regs (l : List (RegIx × Byte)) : State := l.foldl (fun s p => s.setV p.1 p.2) State.reset

/-- The word stored at PC (R43) and one Step made. -/
def run (s : State) (w : Word) (check : State → Bool) : Bool := leads (step (s.placeWord w)) check

/-- Bytes stored in memory. -/
def poke (s : State) (a : Nat) (bs : List Byte) : State := s.setMem (Memory.writeBytes s.mem a bs)

/-- The fault entry of the vectors: ERR and ERR_INFO as given, PC where it was (spec/95_test_vectors.md, conventions). -/
def faulted (e : Err) (info : ErrInfo) (pc : Word) (t : State) : Bool := t.err == e && t.errInfo == info && t.pc == pc

/-! ### WellFormed: the two words that are no SYS (R65) -/

theorem test_sys_00E0_ill_formed : (Instr.sys 0x0E0).wellFormed = false := by decide
theorem test_sys_00EE_ill_formed : (Instr.sys 0x0EE).wellFormed = false := by decide
theorem test_sys_0E1_well_formed : (Instr.sys 0x0E1).wellFormed = true := by decide

/-! ### Decoding: one word per row of R65, written out from its pattern -/

theorem test_decode_sys : decodeWord 0x0123 = .instr (.sys 0x123) := by decide
theorem test_decode_cls : decodeWord 0x00E0 = .instr .cls := by decide
theorem test_decode_ret : decodeWord 0x00EE = .instr .ret := by decide
theorem test_decode_jp : decodeWord 0x1ABC = .instr (.jp 0xABC) := by decide
theorem test_decode_call : decodeWord 0x220A = .instr (.call 0x20A) := by decide
theorem test_decode_se_nn : decodeWord 0x31C5 = .instr (.seVxNn 1 0xC5) := by decide
theorem test_decode_sne_nn : decodeWord 0x4E07 = .instr (.sneVxNn 14 0x07) := by decide
theorem test_decode_se_vy : decodeWord 0x5230 = .instr (.seVxVy 2 3) := by decide
theorem test_decode_ld_nn : decodeWord 0x6A55 = .instr (.ldVxNn 10 0x55) := by decide
theorem test_decode_add_nn : decodeWord 0x71FF = .instr (.addVxNn 1 0xFF) := by decide
theorem test_decode_ld_vy : decodeWord 0x8120 = .instr (.ldVxVy 1 2) := by decide
theorem test_decode_or : decodeWord 0x8AB1 = .instr (.orVxVy 10 11) := by decide
theorem test_decode_and : decodeWord 0x8AB2 = .instr (.andVxVy 10 11) := by decide
theorem test_decode_xor : decodeWord 0x8AB3 = .instr (.xorVxVy 10 11) := by decide
theorem test_decode_add_vy : decodeWord 0x8F14 = .instr (.addVxVy 15 1) := by decide
theorem test_decode_sub : decodeWord 0x8F15 = .instr (.subVxVy 15 1) := by decide
theorem test_decode_shr : decodeWord 0x80A6 = .instr (.shrVx 0 10) := by decide
theorem test_decode_subn : decodeWord 0x8017 = .instr (.subnVxVy 0 1) := by decide
theorem test_decode_shl : decodeWord 0x8F0E = .instr (.shlVx 15 0) := by decide
theorem test_decode_sne_vy : decodeWord 0x9230 = .instr (.sneVxVy 2 3) := by decide
theorem test_decode_ld_i : decodeWord 0xA20E = .instr (.ldINnn 0x20E) := by decide
theorem test_decode_jp_v0 : decodeWord 0xB300 = .instr (.jpV0Nnn 0x300) := by decide
theorem test_decode_rnd : decodeWord 0xC30F = .instr (.rndVxNn 3 0x0F) := by decide
theorem test_decode_drw : decodeWord 0xD125 = .instr (.drwVxVyN 1 2 5) := by decide
theorem test_decode_skp : decodeWord 0xE49E = .instr (.skpVx 4) := by decide
theorem test_decode_sknp : decodeWord 0xE4A1 = .instr (.sknpVx 4) := by decide
theorem test_decode_ld_vx_dt : decodeWord 0xFB07 = .instr (.ldVxDt 11) := by decide
theorem test_decode_ld_vx_k : decodeWord 0xF30A = .instr (.ldVxK 3) := by decide
theorem test_decode_ld_dt : decodeWord 0xFA15 = .instr (.ldDtVx 10) := by decide
theorem test_decode_ld_st : decodeWord 0xF018 = .instr (.ldStVx 0) := by decide
theorem test_decode_add_i : decodeWord 0xF21E = .instr (.addIVx 2) := by decide
theorem test_decode_ld_f : decodeWord 0xF029 = .instr (.ldFVx 0) := by decide
theorem test_decode_ld_b : decodeWord 0xF033 = .instr (.ldBVx 0) := by decide
theorem test_decode_ld_mem : decodeWord 0xF255 = .instr (.ldMemVx 2) := by decide
theorem test_decode_ld_from_mem : decodeWord 0xF265 = .instr (.ldVxMem 2) := by decide

/-- The illegal words of family F, one per group (R66). -/
theorem test_illegal_5 : decodeWord 0x5121 = .rejected .illegal5 := by decide
theorem test_illegal_8 : decodeWord 0x812D = .rejected .illegal8 := by decide
theorem test_illegal_9 : decodeWord 0x9AB1 = .rejected .illegal9 := by decide
theorem test_illegal_E : decodeWord 0xE19F = .rejected .illegalE := by decide
theorem test_illegal_F : decodeWord 0xF130 = .rejected .illegalF := by decide
/-- 00E1 and 01E0 are SYS words (R68). -/
theorem test_near_cls : decodeWord 0x00E1 = .instr (.sys 0x0E1) ∧ decodeWord 0x01E0 = .instr (.sys 0x1E0) := by decide
/-- The byte at the lower address is the high byte (R43); one byte is no instruction. -/
theorem test_decode_bytes : decode [0xD1, 0x25, 0x60] = (.instr (.drwVxVyN 1 2 5), [0x60]) := by decide
theorem test_decode_short : decode [0xD1] = (.rejected .truncated, [0xD1]) := by decide
theorem test_table_word : decodeTableWord 16 0xF265 = some (.ldVxMem 2) ∧ decodeTableWord 16 0x5121 = none := by decide

/-! ### The step cycle -/

/-- A25: a fetch at 0xFFFE succeeds and npc wraps to 0. -/
theorem test_step_at_FFFE : run (State.reset.setPc 0xFFFE) 0x6A55 (fun t => t.getV 10 == 0x55 && t.pc == 0) = true := by decide
/-- A26: no word is fetched at 0xFFFF. -/
theorem test_step_at_FFFF :
    leads (step (State.reset.setPc 0xFFFF)) (faulted .outOfBounds (.pc 0xFFFF) 0xFFFF) = true := by decide
/-- A27: a fetch at an odd address. -/
theorem test_step_at_odd :
    leads (step (poke (State.reset.setPc 0x0201) 0x200 [0x00, 0x61, 0x2A, 0x00])) (fun t => t.getV 1 == 0x2A && t.pc == 0x0203) = true := by
  decide
/-- A30: a latched fault. -/
theorem test_step_latched : run (State.reset.latch .stackUnderflow (.pc 0x0200)) 0x6005
    (fun t => t.getV 0 == 0 && faulted .stackUnderflow (.pc 0x0200) 0x0200 t) = true := by decide
/-- Family F: the word 8128. -/
theorem test_step_illegal :
    run State.reset 0x8128 (faulted .illegalInstruction (.pcOp 0x0200 0x8128) 0x0200) = true := by decide

/-! ### Family A: control transfer -/

/-- A28: the word of never-written memory. -/
theorem test_sys_0000 :
    leads (step State.reset) (faulted .illegalInstruction (.pcOp 0x0200 0x0000) 0x0200) = true := by decide
/-- A29. -/
theorem test_sys_0123 :
    run State.reset 0x0123 (faulted .illegalInstruction (.pcOp 0x0200 0x0123) 0x0200) = true := by decide
/-- A8. -/
theorem test_ret : run (((State.reset.setStackAt 0 0x0206).setSp 1).setPc 0x020C) 0x00EE
    (fun t => t.sp == 0 && t.pc == 0x0206 && t.stack[0] == 0x0206) = true := by decide
/-- A9. -/
theorem test_ret_empty : run State.reset 0x00EE (faulted .stackUnderflow (.pc 0x0200) 0x0200) = true := by decide
/-- A3. -/
theorem test_jp : run State.reset 0x1FFF (fun t => t.pc == 0x0FFF) = true := by decide
/-- A7: the pushed npc wraps. -/
theorem test_call_wraps :
    run ((State.reset.setPc 0xFFFE).setStackAt 0 0x1234) 0x2300
      (fun t => t.stack[0] == 0 && t.sp == 1 && t.pc == 0x0300) = true := by decide
/-- A5. -/
theorem test_call_last : run (State.reset.setSp 29) 0x2300
    (fun t => t.stack[29] == 0x0202 && t.sp == 30 && t.pc == 0x0300) = true := by decide
/-- A10, A11. -/
theorem test_se_nn_taken : run ((regs [(1, 0x00)]).setPc 0x0208) 0x3100 (fun t => t.pc == 0x020C) = true := by decide
theorem test_se_nn_not : run ((regs [(1, 0x04)]).setPc 0x0208) 0x3100 (fun t => t.pc == 0x020A) = true := by decide
/-- A12, A13. -/
theorem test_sne_nn_taken : run (regs [(0, 0x07)]) 0x4008 (fun t => t.pc == 0x0204) = true := by decide
theorem test_sne_nn_not : run (regs [(0, 0x07)]) 0x4007 (fun t => t.pc == 0x0202) = true := by decide
/-- A14, A15. -/
theorem test_se_vy_taken : run (regs [(2, 0x11), (3, 0x11)]) 0x5230 (fun t => t.pc == 0x0204) = true := by decide
theorem test_se_vy_not : run (regs [(2, 0x11), (3, 0x12)]) 0x5230 (fun t => t.pc == 0x0202) = true := by decide
/-- A17, A18. -/
theorem test_sne_vy_taken : run (regs [(2, 0x11), (3, 0x12)]) 0x9230 (fun t => t.pc == 0x0204) = true := by decide
theorem test_sne_vy_not : run (regs [(2, 0x11), (3, 0x11)]) 0x9230 (fun t => t.pc == 0x0202) = true := by decide
/-- A20, A21. -/
theorem test_jp_v0 : run (regs [(0, 0x04)]) 0xB300 (fun t => t.pc == 0x0304) = true := by decide
theorem test_jp_v0_top : run (regs [(0, 0xFF), (15, 0x03)]) 0xBFFF (fun t => t.pc == 0x10FE) = true := by decide

/-! ### Family B: register ALU -/

/-- B2. -/
theorem test_ld_nn : run State.reset 0x6FAB (fun t => t.getV 15 == 0xAB && t.pc == 0x0202) = true := by decide
/-- B5, B6. -/
theorem test_add_nn : run (regs [(1, 0xFF), (15, 0x07)]) 0x7101 (fun t => t.getV 1 == 0 && t.getV 15 == 0x07) = true := by decide
theorem test_add_nn_vf : run (regs [(15, 0xFF)]) 0x7F02 (fun t => t.getV 15 == 0x01) = true := by decide
/-- B7. -/
theorem test_ld_vy : run (regs [(1, 0x2A)]) 0x8010 (fun t => t.getV 0 == 0x2A) = true := by decide
/-- B8, B9, B10. -/
theorem test_or : run (regs [(0, 0x08), (1, 0x02), (15, 0x05)]) 0x8011 (fun t => t.getV 0 == 0x0A && t.getV 15 == 0x05) = true := by
  decide
theorem test_and : run (regs [(0, 0x3C), (1, 0x0F), (15, 0x05)]) 0x8012 (fun t => t.getV 0 == 0x0C && t.getV 15 == 0x05) = true := by
  decide
theorem test_xor : run (regs [(0, 0x3C), (1, 0x0F), (15, 0x05)]) 0x8013 (fun t => t.getV 0 == 0x33 && t.getV 15 == 0x05) = true := by
  decide
/-- The ADD table, row F0 20; B27: the old VF as an addend. -/
theorem test_add_vy : run (regs [(0, 0xF0), (1, 0x20)]) 0x8014 (fun t => t.getV 0 == 0x10 && t.getV 15 == 1) = true := by decide
theorem test_add_vf : run (regs [(0, 0xFF), (15, 0x01)]) 0x80F4 (fun t => t.getV 0 == 0x00 && t.getV 15 == 1) = true := by decide
/-- The SUB table, row 03 05; S2: equal operands. -/
theorem test_sub : run (regs [(0, 0x03), (1, 0x05)]) 0x8015 (fun t => t.getV 0 == 0xFE && t.getV 15 == 0) = true := by decide
theorem test_sub_equal : run (regs [(0, 0x07), (1, 0x07), (15, 0x09)]) 0x8015 (fun t => t.getV 0 == 0 && t.getV 15 == 0) = true := by
  decide
/-- The SHR table, row 81, with y = A; B23: VF shifted. -/
theorem test_shr : run (regs [(0, 0x81), (10, 0x33)]) 0x80A6 (fun t => t.getV 0 == 0x40 && t.getV 15 == 1) = true := by decide
theorem test_shr_vf : run (regs [(15, 0x03)]) 0x8F06 (fun t => t.getV 15 == 0x01) = true := by decide
/-- The SUBN table, rows 01 AA and FF 01. -/
theorem test_subn : run (regs [(0, 0x01), (1, 0xAA)]) 0x8017 (fun t => t.getV 0 == 0xA9 && t.getV 15 == 1) = true := by decide
theorem test_subn_less : run (regs [(0, 0xFF), (1, 0x01)]) 0x8017 (fun t => t.getV 0 == 0x02 && t.getV 15 == 0) = true := by decide
/-- The SHL table, row 81; B24: VF shifted. -/
theorem test_shl : run (regs [(0, 0x81)]) 0x800E (fun t => t.getV 0 == 0x02 && t.getV 15 == 1) = true := by decide
theorem test_shl_vf : run (regs [(15, 0x80)]) 0x8F0E (fun t => t.getV 15 == 0x01) = true := by decide
/-- B30: the source delivers B7; B32: a byte is consumed although nn = 0. -/
theorem test_rnd : run (State.reset.supplyRandom 0xB7) 0xC30F (fun t => t.getV 3 == 0x07 && t.rndSupply == []) = true := by decide
theorem test_rnd_zero :
    run ((State.reset.supplyRandom 0xB7).supplyRandom 0x55) 0xC300 (fun t => t.getV 3 == 0 && t.rndSupply == [0x55]) = true := by decide

/-! ### Family C: index register and memory -/

/-- C1. -/
theorem test_ld_i : run (State.reset.setI 0xFFFF) 0xA300 (fun t => t.regI == 0x0300) = true := by decide
/-- C4, C5. -/
theorem test_add_i : run ((regs [(1, 0x01), (15, 0x09)]).setI 0x0FFF) 0xF11E (fun t => t.regI == 0x1000 && t.getV 15 == 0x09) = true := by
  decide
theorem test_add_i_wraps :
    run ((regs [(1, 0x01), (15, 0x09)]).setI 0xFFFF) 0xF11E (fun t => t.regI == 0 && t.getV 15 == 0x09) = true := by decide
/-- C8, C10. -/
theorem test_ld_f : run (regs [(0, 0x0F)]) 0xF029 (fun t => t.regI == 0x004B) = true := by decide
theorem test_ld_f_whole_byte : run (regs [(0, 0xFF)]) 0xF029 (fun t => t.regI == 0x04FB) = true := by decide
/-- C12, C13. -/
theorem test_ld_b_top : run ((regs [(0, 0x7B)]).setI 0xFFFD) 0xF033
    (fun t => Memory.readBytes t.mem 0xFFFD 3 == [1, 2, 3] && t.regI == 0xFFFD) = true := by decide
theorem test_ld_b_out : run ((regs [(0, 0x7B)]).setI 0xFFFE) 0xF033
    (fun t => faulted .outOfBounds (.pc 0x0200) 0x0200 t && Memory.readBytes t.mem 0xFFFE 2 == [0, 0]) = true := by decide
/-- C14, C17. -/
theorem test_ld_mem : run ((regs [(0, 0x11), (1, 0x22), (2, 0x33), (3, 0x44)]).setI 0x0400) 0xF255
    (fun t => Memory.readBytes t.mem 0x400 4 == [0x11, 0x22, 0x33, 0x00] && t.regI == 0x0400) = true := by decide
theorem test_ld_mem_out : run ((regs [(0, 0x11)]).setI 0xFFF1) 0xFF55
    (fun t => faulted .outOfBounds (.pc 0x0200) 0x0200 t && Memory.readBytes t.mem 0xFFF1 1 == [0]) = true := by decide
/-- C18, C19: the font at 0. -/
theorem test_ld_from_mem : run ((poke (regs [(3, 0x77)]) 0x300 [0x02, 0x05, 0x05, 0x99]).setI 0x0300) 0xF265
    (fun t => t.getV 0 == 2 && t.getV 1 == 5 && t.getV 2 == 5 && t.getV 3 == 0x77 && t.regI == 0x0300) = true := by decide
theorem test_ld_from_font : run State.reset 0xF465
    (fun t => t.getV 0 == 0xF0 && t.getV 1 == 0x90 && t.getV 2 == 0x90 && t.getV 3 == 0x90 && t.getV 4 == 0xF0) = true := by decide

/-! ### Family D: display -/

/-- D1. -/
theorem test_cls : run ((State.reset.setFb (Framebuffer.flip State.reset.fb 63 31)).setV 15 7) 0x00E0
    (fun t => !t.pixel 2047 && t.getV 15 == 7) = true := by decide
/-- D13: rows 31 and 0, columns 62, 63, 0, 1 and 62, 5. -/
theorem test_drw_wraps : run ((poke (regs [(0, 62), (1, 31)]) 0x20E [0xF0, 0x81]).setI 0x020E) 0xD012
    (fun t => t.fb[31] == 0xC000000000000003 && t.fb[0] == 0x4000000000000020 && t.pixel 2046 && t.pixel 1984 && t.pixel 5 &&
      t.getV 15 == 0) = true := by decide
/-- D8: a collision. -/
theorem test_drw_collision :
    run (((poke State.reset 0x300 [0xC0]).setFb (Framebuffer.flip State.reset.fb 1 0)).setI 0x0300) 0xD011
      (fun t => t.pixel 0 && !t.pixel 1 && t.getV 15 == 1) = true := by decide

/-! ### Family E: timers, keys and the host's operations -/

/-- E1, E2, E3. -/
theorem test_ld_vx_dt : run (State.reset.setDt 0x03) 0xFB07 (fun t => t.getV 11 == 0x03) = true := by decide
theorem test_ld_dt : run (regs [(10, 0x03)]) 0xFA15 (fun t => t.dt == 0x03) = true := by decide
theorem test_ld_st : run (regs [(0, 0x1E)]) 0xF018 (fun t => t.st == 0x1E) = true := by decide
/-- E8, E9. -/
theorem test_wait_blocks : run (regs [(3, 0x55)]) 0xF30A (fun t => t.pc == 0x0200 && t.getV 3 == 0x55) = true := by decide
theorem test_wait_lowest : run (((regs [(3, 0x55)]).keyWrite 9 true).keyWrite 7 true) 0xF30A
    (fun t => t.getV 3 == 0x07 && t.pc == 0x0202) = true := by decide
/-- E14, E13. -/
theorem test_skp_low_nibble : run ((regs [(4, 0x1A)]).keyWrite 10 true) 0xE49E (fun t => t.pc == 0x0204) = true := by decide
theorem test_skp_up : run (regs [(4, 0x05)]) 0xE49E (fun t => t.pc == 0x0202) = true := by decide
/-- E15, E16. -/
theorem test_sknp_up : run (regs [(4, 0x05)]) 0xE4A1 (fun t => t.pc == 0x0204) = true := by decide
theorem test_sknp_down : run ((regs [(4, 0x05)]).keyWrite 5 true) 0xE4A1 (fun t => t.pc == 0x0202) = true := by decide
/-- E4, E6, E7. -/
theorem test_tick : leads (operate .tick ((State.reset.setDt 3).setSt 1)) (fun t => t.dt == 2 && t.st == 0) = true := by decide
theorem test_tick_at_zero : leads (operate .tick State.reset) (fun t => t.dt == 0 && t.st == 0) = true := by decide
theorem test_tick_latched :
    leads (operate .tick ((State.reset.setDt 5).latch .outOfBounds (.pc 0))) (fun t => t.dt == 4 && t.err == .outOfBounds) = true := by
  decide
/-- F3: Reset after a fault; the program is gone. -/
theorem test_reset : leads (operate .reset ((poke (regs [(0, 0x12)]) 0x200 [0x60, 0x12]).latch .illegalInstruction (.pcOp 0x202 0)))
    (fun t => t.err == .none && t.getV 0 == 0 && t.readMem 0x200 == 0 && t.pc == 0x0200) = true := by decide
/-- P6: the bytes LD [I],V1 stored at 0x208 are the word the next Step fetches. -/
theorem test_store_then_fetch : run (((regs [(0, 0x12), (1, 0x08)]).setI 0x0208).setPc 0x0206) 0xF155
    (fun t => t.fetchWord == 0x1208) = true := by decide

/-! ### Witnesses: for each obligation with hypotheses, a state and operands that meet all of them together; for each clause of its
own, one at the edge of its range -/

/-- A legal state other than the power-on state: three calls deep, two bytes of memory changed. -/
def sample : State := (poke (regs [(1, 0x7B), (2, 0x1A)]) 0x300 [0xC0, 0x81]).setSp 3

/-- A legal state with a latched fault. -/
def latchedSample : State := sample.latch .illegalInstruction (.pcOp 0x0200 0x5121)

/-- The invariant's three parts at the two samples. -/
theorem witness_StepKeepsInvariant : sample.Inv := ⟨by decide, by decide, by decide⟩
theorem witness_StepKeepsInvariant_latched : latchedSample.Inv := ⟨by decide, by decide, by decide⟩
theorem witness_HostOperationsKeepInvariant : (sample.setSp 30).Inv := ⟨by decide, by decide, by decide⟩

theorem witness_DecodeOfEncode : (Instr.drwVxVyN 1 2 15).wellFormed = true ∧ (Instr.sys 0x0E1).wellFormed = true := by decide
theorem witness_EncodeOfDecode : decodeWord 0xFF65 = .instr (.ldVxMem 15) := by decide
theorem witness_DecodeFollowsOpcodeMap : (⟨"SNE_Vx_Vy", 0xF00F, 0x9000, []⟩ : OpcodeRow) ∈ opcodeMap := by decide
theorem witness_DecodeFollowsOpcodeMap_sys : (⟨"SYS_nnn", 0xF000, 0x0000, [0x00E0, 0x00EE]⟩ : OpcodeRow) ∈ opcodeMap := by decide

theorem witness_StepRunsDecodedInstruction :
    let s := poke State.reset 0x200 [0x6A, 0x55]
    s.err = .none ∧ s.pc ≠ 0xFFFF ∧ (decode [s.readMem s.pc.toNat, s.readMem (s.pc.toNat + 1)]).1 = .instr (.ldVxNn 10 0x55) := by
  decide
theorem witness_StepRunsDecodedInstruction_top :
    let s := poke (State.reset.setPc 0xFFFE) 0xFFFE [0x6A, 0x55]
    s.err = .none ∧ s.pc ≠ 0xFFFF ∧ (decode [s.readMem s.pc.toNat, s.readMem (s.pc.toNat + 1)]).1 = .instr (.ldVxNn 10 0x55) := by
  decide
theorem witness_FetchAtTopFaults : (State.reset.setPc 0xFFFF).err = .none ∧ (State.reset.setPc 0xFFFF).pc = 0xFFFF := by decide
theorem witness_FaultingWordRaisesIllegal_sys :
    State.reset.err = .none ∧ State.reset.pc ≠ 0xFFFF ∧ isFaultingWord State.reset.fetchWord = true := by decide
theorem witness_FaultingWordRaisesIllegal_word :
    let s := poke State.reset 0x200 [0xF1, 0x30]
    s.err = .none ∧ s.pc ≠ 0xFFFF ∧ isFaultingWord s.fetchWord = true := by decide
theorem witness_LatchIsSticky : latchedSample.err ≠ .none ∧ HostOp.tick ≠ .step ∧ HostOp.tick ≠ .reset := by decide
theorem witness_FaultingStepIsPrecise :
    State.reset.err = .none ∧ ∃ t, step State.reset = .next t ∧ t.err ≠ .none := ⟨rfl, _, rfl, by decide⟩
theorem witness_FaultingStepIsPrecise_stack :
    let s := poke State.reset 0x200 [0x00, 0xEE]
    s.err = .none ∧ ∃ t, step s = .next t ∧ t.err ≠ .none := ⟨rfl, _, rfl, by decide⟩

/-- One state for each clause of the list of faults, at the edge of its range. -/
theorem witness_FaultsAreExactlyListed : State.reset.err = .none ∧ ∃ t, step State.reset = .next t := ⟨rfl, _, rfl⟩
theorem witness_FaultsAreExactlyListed_draw :
    let s := (poke State.reset 0x200 [0xD0, 0x12]).setI 0xFFFF
    decodeWord s.fetchWord = .instr (.drwVxVyN 0 1 2) ∧ s.regI.toNat + (2 : Nibble).toNat - 1 = 0x10000 := by decide
theorem witness_FaultsAreExactlyListed_bcd :
    let s := (poke State.reset 0x200 [0xF0, 0x33]).setI 0xFFFE
    decodeWord s.fetchWord = .instr (.ldBVx 0) ∧ s.regI.toNat + 2 = 0x10000 := by decide
theorem witness_FaultsAreExactlyListed_store :
    let s := (poke State.reset 0x200 [0xFF, 0x55]).setI 0xFFF1
    decodeWord s.fetchWord = .instr (.ldMemVx 15) ∧ s.regI.toNat + (15 : RegIx).val = 0x10000 := by decide
theorem witness_FaultsAreExactlyListed_load :
    let s := (poke State.reset 0x200 [0xF1, 0x65]).setI 0xFFFF
    decodeWord s.fetchWord = .instr (.ldVxMem 1) ∧ s.regI.toNat + (1 : RegIx).val = 0x10000 := by decide
theorem witness_FaultsAreExactlyListed_call :
    let s := (poke State.reset 0x200 [0x23, 0x00]).setSp 30
    s.pc ≠ 0xFFFF ∧ decodeWord s.fetchWord = .instr (.call 0x300) ∧ s.sp = 30 := by decide
theorem witness_FaultsAreExactlyListed_ret :
    let s := poke State.reset 0x200 [0x00, 0xEE]
    s.pc ≠ 0xFFFF ∧ decodeWord s.fetchWord = .instr .ret ∧ s.sp = 0 := by decide

theorem witness_SpecialStateWriters :
    let s := poke (regs [(0, 5)]) 0x300 [0xC0]
    ∃ t, exec (.ldFVx 0) s = .next t ∧ t.regI ≠ s.regI := ⟨_, rfl, by decide⟩
theorem witness_RegisterWriters : ∃ t, exec (.ldVxNn 3 7) State.reset = .next t ∧ t.getV 3 ≠ State.reset.getV 3 := ⟨_, rfl, by decide⟩
theorem witness_PlacedWordIsRun :
    sample.Inv ∧ sample.err = .none ∧ sample.pc ≠ 0xFFFF ∧ decodeWord 0xD125 = .instr (.drwVxVyN 1 2 5) :=
  ⟨⟨by decide, by decide, by decide⟩, by decide, by decide, by decide⟩
theorem witness_PlacedWordIsRun_top :
    (sample.setPc 0xFFFE).Inv ∧ (sample.setPc 0xFFFE).err = .none ∧ (sample.setPc 0xFFFE).pc ≠ 0xFFFF ∧
      decodeWord 0x00E0 = .instr .cls := ⟨⟨by decide, by decide, by decide⟩, by decide, by decide, by decide⟩
theorem witness_StoreSeenByNextFetch :
    let s := ((regs [(0, 0x12), (1, 0x08)]).setI 0x0208).setPc 0x0206
    Memory.wf s.mem = true ∧ s.regI.toNat + (1 : RegIx).val ≤ 0xFFFF ∧ (0 : RegIx).val + 1 = (1 : RegIx).val ∧ (1 : RegIx) ≤ 1 ∧
      s.regI.toNat + (0 : RegIx).val = (s.pc.toNat + 2) % 65536 ∧ ∃ t, exec (.ldMemVx 1) s = .next t :=
  ⟨by decide, by decide, by decide, by decide, by decide, _, rfl⟩
theorem witness_ParkedStepChangesNothing :
    let s := poke (State.reset.setPc 0x0FFF) 0xFFF [0x1F, 0xFF]
    s.err = .none ∧ s.Parked := ⟨rfl, by decide, by decide⟩

theorem witness_RetPopsReturnAddress : State.reset.sp = 0 ∧ (State.reset.setSp 1).sp.toNat = (0 : Fin 30).val + 1 ∧
    (State.reset.setSp 30).sp.toNat = (29 : Fin 30).val + 1 := by decide
theorem witness_CallPushesReturnAddress : (State.reset.setSp 30).sp = 30 ∧ State.reset.sp.toNat = (0 : Fin 30).val ∧
    (State.reset.setSp 29).sp.toNat = (29 : Fin 30).val := by decide
theorem witness_NestedCallsReturn :
    (List.replicate 27 (0x300 : Addr12) ≠ [] ∧ sample.sp.toNat + (List.replicate 27 (0x300 : Addr12)).length ≤ 30) ∧
      (List.replicate 28 (0x300 : Addr12) ≠ [] ∧ sample.sp.toNat + (List.replicate 28 (0x300 : Addr12)).length = 31) := by decide
theorem witness_NestedCallsReturn_one : [(0x300 : Addr12)] ≠ [] ∧ (State.reset.setSp 30).sp.toNat + [(0x300 : Addr12)].length = 31 := by
  decide

/-- For ADD, SUB, SHR, SUBN and SHL: a destination other than VF, and VF itself. -/
theorem witness_AddSetsCarry : (0 : RegIx) ≠ vf ∧ (14 : RegIx) ≠ vf ∧ (15 : RegIx) = vf := by decide
theorem witness_SubSetsStrictGreater : (3 : RegIx) ≠ vf := by decide
theorem witness_ShrShiftsOutBitZero : (14 : RegIx) ≠ vf := by decide
theorem witness_SubnSetsStrictGreater : (1 : RegIx) ≠ vf := by decide
theorem witness_ShlShiftsOutBitSeven : (0 : RegIx) ≠ vf := by decide
theorem witness_RandomSourceDeliversSupply : (sample.supplyRandom 0xB7).rndSupply.length = 1 ∧ State.reset.rndSupply = [] := by decide

theorem witness_LdBcdStoresDigits : (State.reset.setI 0xFFFE).regI.toNat + 2 > 0xFFFF ∧
    (sample.setI 0xFFFD).regI.toNat + 2 ≤ 0xFFFF ∧ Memory.wf (sample.setI 0xFFFD).mem = true := by decide
theorem witness_LdStoresRegisters : (State.reset.setI 0xFFF1).regI.toNat + (15 : RegIx).val > 0xFFFF ∧
    (sample.setI 0xFFF0).regI.toNat + (15 : RegIx).val ≤ 0xFFFF ∧ Memory.wf (sample.setI 0xFFF0).mem = true := by decide
theorem witness_LdLoadsRegisters : (State.reset.setI 0xFFFF).regI.toNat + (1 : RegIx).val > 0xFFFF ∧
    (State.reset.setI 0xFFFF).regI.toNat + (0 : RegIx).val ≤ 0xFFFF := by decide

theorem witness_DrwXorsSprite_out :
    (2 : Nibble).toNat ≥ 1 ∧ (State.reset.setI 0xFFFF).regI.toNat + (2 : Nibble).toNat - 1 > 0xFFFF := by decide
theorem witness_DrwXorsSprite_edge : (State.reset.setI 0xFFFF).regI.toNat + (1 : Nibble).toNat - 1 ≤ 0xFFFF := by decide
/-- The sprite C0 at (0, 0) covers cell 1, which is lit: a collision (D8); on a clear screen there is none. -/
theorem witness_DrwXorsSprite_collision :
    let s := ((poke State.reset 0x300 [0xC0]).setFb (Framebuffer.flip State.reset.fb 1 0)).setI 0x0300
    SpriteCovers s (s.getV 0) (s.getV 1) 1 1 ∧ s.pixel 1 = true := ⟨⟨0, by decide, 1, by decide, by decide, by decide⟩, by decide⟩
theorem witness_DrwXorsSprite_no_collision :
    let s := State.reset
    ¬ ∃ k, SpriteCovers s (s.getV 0) (s.getV 1) 0 k ∧ s.pixel k = true :=
  fun ⟨_, ⟨_, hrow, _⟩, _⟩ => Nat.not_lt_zero _ hrow
theorem witness_DrawTwiceRestores :
    let s := (poke (regs [(0, 3)]) 0x300 [0xC0]).setI 0x0300
    ∃ t, exec (.drwVxVyN 0 1 1) s = .next t ∧ t.getV 0 = s.getV 0 ∧ t.getV 1 = s.getV 1 := ⟨_, rfl, by decide, by decide⟩

theorem witness_LdWaitsForKey_down :
    let s := (State.reset.keyWrite 15 true).keyWrite 9 true
    s.keyAt 9 = true ∧ ∀ j < (9 : RegIx), s.keyAt j = false := by decide
theorem witness_LdWaitsForKey_up : ∀ k, State.reset.keyAt k = false := by decide
theorem witness_SkipOnKey : (10 : RegIx).val = ((regs [(4, 0x1A)]).getV 4).toNat % 16 := by decide
theorem witness_LoadCopiesImage :
    (List.replicate 65024 (0x60 : Byte)).length ≤ 65024 ∧ Memory.wf sample.mem = true ∧ 65023 < (List.replicate 65024 (0x60 : Byte)).length :=
  ⟨by rw [List.length_replicate], by decide, by rw [List.length_replicate]; decide⟩
theorem witness_LoadCopiesImage_refused : (List.replicate 65025 (0x60 : Byte)).length > 65024 := by
  rw [List.length_replicate]; decide
theorem witness_StackIndexStops : 30 < (State.reset.setSp 31).sp.toNat := by decide

end Sys2Proof.Tests
end

section
/-!
Proofs of the statements of spec/10_state.md. The key fact is `exec_outcome`: what executing an instruction can do, said once for all
35 instructions; who may write which piece of the state is then read off from it.
-/

namespace Sys2Proof.Machine

/-! ### What executing an instruction can do -/

/-- The writes of instruction `i` executed in `s`, before its end assigns PC: the state `u` they lead to. The general registers an
instruction writes are tied to the table of R12. -/
inductive ExecWrites (s : State) : Instr → State → Prop where
  | nothing {i : Instr} : ExecWrites s i s
  | register {i : Instr} {x : RegIx} (b : Byte) (hi : ∀ r, writesRegister i r = (r == x)) : ExecWrites s i (s.setV x b)
  | resultAndFlag {i : Instr} {x : RegIx} (b : Byte) (flag : Bool)
      (hi : ∀ r, writesRegister i r = (r == x || r == vf)) : ExecWrites s i (writeResultThenFlag x b flag s)
  | random {x : RegIx} {nn : Byte} (b : Byte) : ExecWrites s (.rndVxNn x nn) (s.consumeRandom.setV x b)
  | loadRegisters {x : RegIx} (f : RegIx → Byte) (hf : ∀ r, ¬ r ≤ x → f r = s.getV r) :
      ExecWrites s (.ldVxMem x) (s.setAllV f)
  | push {nnn : Addr12} (k : Fin 30) (a : Word) (n : BitVec 5) :
      ExecWrites s (.call nnn) ((s.setStackAt k a).setSp n)
  | pop (n : BitVec 5) : ExecWrites s .ret (s.setSp n)
  | indexImmediate {nnn : Addr12} (a : Word) : ExecWrites s (.ldINnn nnn) (s.setI a)
  | indexAdd {x : RegIx} (a : Word) : ExecWrites s (.addIVx x) (s.setI a)
  | indexFont {x : RegIx} (a : Word) : ExecWrites s (.ldFVx x) (s.setI a)
  | delayTimer {x : RegIx} (b : Byte) : ExecWrites s (.ldDtVx x) (s.setDt b)
  | soundTimer {x : RegIx} (b : Byte) : ExecWrites s (.ldStVx x) (s.setSt b)
  | clear (f : Framebuffer) : ExecWrites s .cls (s.setFb f)
  | draw {x y : RegIx} {n : Nibble} (f : Framebuffer) (b : Byte) :
      ExecWrites s (.drwVxVyN x y n) ((s.setFb f).setV vf b)
  | storeDigits {x : RegIx} (m : Memory) : ExecWrites s (.ldBVx x) (s.setMem m)
  | storeRegisters {x : RegIx} (m : Memory) : ExecWrites s (.ldMemVx x) (s.setMem m)

/-- The outcomes of instruction `i` executed in `s`: its writes and then PC; a latched fault and nothing else (R205); the stop at
SP = 31 (log 5). -/
inductive ExecOutcome (s : State) (i : Instr) : Result → Prop where
  | completes {u : State} (a : Word) (hw : ExecWrites s i u) : ExecOutcome s i (.next (u.setPc a))
  | faults (e : Err) (info : ErrInfo) : ExecOutcome s i (.next (s.latch e info))
  | stops : ExecOutcome s i (.fault .stackIndex)

theorem pushAndJump_outcome (nnn : Addr12) (a target : Word) (s : State) :
    ExecOutcome s (.call nnn) (pushAndJump a target s) := by
  rcases Nat.lt_trichotomy s.sp.toNat 30 with h | h | h
  · rw [pushAndJump_pushes s a target h]
    exact .completes _ (.push _ _ _)
  · rw [pushAndJump_full s a target (BitVec.eq_of_toNat_eq h)]
    exact .faults _ _
  · rw [pushAndJump_stops s a target h]
    exact .stops

theorem popAndJump_outcome (s : State) : ExecOutcome s .ret (popAndJump s) := by
  rcases Nat.eq_zero_or_pos s.sp.toNat with h0 | h0
  · rw [popAndJump_empty s (BitVec.eq_of_toNat_eq h0)]
    exact .faults _ _
  · rcases Nat.lt_or_ge 30 s.sp.toNat with h | h
    · rw [popAndJump_stops s h]
      exact .stops
    · rw [popAndJump_pops s h0 (by omega)]
      exact .completes _ (.pop _)

theorem execLdBVx_outcome (x : RegIx) (s : State) : ExecOutcome s (.ldBVx x) (execLdBVx x s) := by
  rcases Nat.lt_or_ge 0xFFFF (s.regI.toNat + 2) with h | h
  · rw [execLdBVx_outOfBounds x s h]
    exact .faults _ _
  · rw [execLdBVx_fits x s h]
    exact .completes _ (.storeDigits _)

theorem execLdMemVx_outcome (x : RegIx) (s : State) : ExecOutcome s (.ldMemVx x) (execLdMemVx x s) := by
  rcases Nat.lt_or_ge 0xFFFF (s.regI.toNat + x.val) with h | h
  · rw [execLdMemVx_outOfBounds x s h]
    exact .faults _ _
  · rw [execLdMemVx_fits x s h]
    exact .completes _ (.storeRegisters _)

theorem execLdVxMem_outcome (x : RegIx) (s : State) : ExecOutcome s (.ldVxMem x) (execLdVxMem x s) := by
  rcases Nat.lt_or_ge 0xFFFF (s.regI.toNat + x.val) with h | h
  · rw [execLdVxMem_outOfBounds x s h]
    exact .faults _ _
  · rw [execLdVxMem_fits x s h]
    exact .completes _ (.loadRegisters _ fun _ hr => if_neg hr)

theorem execDrwVxVyN_outcome (x y : RegIx) (n : Nibble) (s : State) :
    ExecOutcome s (.drwVxVyN x y n) (execDrwVxVyN x y n s) := by
  by_cases h : n = 0 ∨ s.regI.toNat + (n.toNat - 1) ≤ 0xFFFF
  · rw [execDrwVxVyN_fits x y n s h]
    exact .completes _ (.draw _ _)
  · obtain ⟨h0, hout⟩ := not_or.1 h
    rw [execDrwVxVyN_outOfBounds x y n s h0 (Nat.not_le.1 hout)]
    exact .faults _ _

theorem waitForKey_outcome (mode : WaitKeyMode) (x : RegIx) (s : State) :
    ExecOutcome s (.ldVxK x) (waitForKey mode x s) := by
  cases mode with
  | noop => exact .completes _ .nothing
  | block =>
    unfold waitForKey
    cases lowestKeyDown s with
    | none => exact .completes _ .nothing
    | some k => exact .completes _ (.register _ fun _ => rfl)

/-- What executing any of the 35 instructions can do. -/
theorem exec_outcome (s : State) : ∀ i, ExecOutcome s i (exec i s)
  | .sys _ => .faults _ _
  | .cls => .completes _ (.clear _)
  | .ret => popAndJump_outcome s
  | .jp _ => .completes _ .nothing
  | .call nnn => pushAndJump_outcome nnn _ _ s
  | .seVxNn _ _ => .completes _ .nothing
  | .sneVxNn _ _ => .completes _ .nothing
  | .seVxVy _ _ => .completes _ .nothing
  | .ldVxNn _ _ => .completes _ (.register _ fun _ => rfl)
  | .addVxNn _ _ => .completes _ (.register _ fun _ => rfl)
  | .ldVxVy _ _ => .completes _ (.register _ fun _ => rfl)
  | .orVxVy _ _ => .completes _ (.register _ fun _ => rfl)
  | .andVxVy _ _ => .completes _ (.register _ fun _ => rfl)
  | .xorVxVy _ _ => .completes _ (.register _ fun _ => rfl)
  | .addVxVy _ _ => .completes _ (.resultAndFlag _ _ fun _ => rfl)
  | .subVxVy _ _ => .completes _ (.resultAndFlag _ _ fun _ => rfl)
  | .shrVx _ _ => .completes _ (.resultAndFlag _ _ fun _ => rfl)
  | .subnVxVy _ _ => .completes _ (.resultAndFlag _ _ fun _ => rfl)
  | .shlVx _ _ => .completes _ (.resultAndFlag _ _ fun _ => rfl)
  | .sneVxVy _ _ => .completes _ .nothing
  | .ldINnn _ => .completes _ (.indexImmediate _)
  | .jpV0Nnn _ => .completes _ .nothing
  | .rndVxNn _ _ => .completes _ (.random _)
  | .drwVxVyN x y n => execDrwVxVyN_outcome x y n s
  | .skpVx _ => .completes _ .nothing
  | .sknpVx _ => .completes _ .nothing
  | .ldVxDt _ => .completes _ (.register _ fun _ => rfl)
  | .ldVxK x => waitForKey_outcome Config.waitKeyMode x s
  | .ldDtVx _ => .completes _ (.delayTimer _)
  | .ldStVx _ => .completes _ (.soundTimer _)
  | .addIVx _ => .completes _ (.indexAdd _)
  | .ldFVx _ => .completes _ (.indexFont _)
  | .ldBVx x => execLdBVx_outcome x s
  | .ldMemVx x => execLdMemVx_outcome x s
  | .ldVxMem x => execLdVxMem_outcome x s

/-- A next state is the instruction's writes and then PC, or a latched fault and nothing else. -/
theorem exec_next_cases {i : Instr} {s t : State} (h : exec i s = .next t) :
    (∃ u a, ExecWrites s i u ∧ t = u.setPc a) ∨ ∃ e info, t = s.latch e info := by
  have ho : ExecOutcome s i (.next t) := h ▸ exec_outcome s i
  cases ho with
  | completes a hw => exact .inl ⟨_, a, hw, rfl⟩
  | faults e info => exact .inr ⟨e, info, rfl⟩

/-! ### Who writes which piece -/

section
variable {s u : State} {i : Instr}

theorem ExecWrites.key_eq (hw : ExecWrites s i u) : u.key = s.key := by cases hw <;> rfl

theorem ExecWrites.regI_writer (hw : ExecWrites s i u) (hne : u.regI ≠ s.regI) :
    (∃ nnn, i = .ldINnn nnn) ∨ (∃ x, i = .addIVx x) ∨ ∃ x, i = .ldFVx x := by
  cases hw with
  | indexImmediate => exact .inl ⟨_, rfl⟩
  | indexAdd => exact .inr (.inl ⟨_, rfl⟩)
  | indexFont => exact .inr (.inr ⟨_, rfl⟩)
  | _ => exact absurd rfl hne

theorem ExecWrites.sp_writer (hw : ExecWrites s i u) (hne : u.sp ≠ s.sp) : i = .ret ∨ ∃ nnn, i = .call nnn := by
  cases hw with
  | pop => exact .inl rfl
  | push => exact .inr ⟨_, rfl⟩
  | _ => exact absurd rfl hne

theorem ExecWrites.stack_writer (hw : ExecWrites s i u) (hne : u.stack ≠ s.stack) : ∃ nnn, i = .call nnn := by
  cases hw with
  | push => exact ⟨_, rfl⟩
  | _ => exact absurd rfl hne

theorem ExecWrites.dt_writer (hw : ExecWrites s i u) (hne : u.dt ≠ s.dt) : ∃ x, i = .ldDtVx x := by
  cases hw with
  | delayTimer => exact ⟨_, rfl⟩
  | _ => exact absurd rfl hne

theorem ExecWrites.st_writer (hw : ExecWrites s i u) (hne : u.st ≠ s.st) : ∃ x, i = .ldStVx x := by
  cases hw with
  | soundTimer => exact ⟨_, rfl⟩
  | _ => exact absurd rfl hne

theorem ExecWrites.fb_writer (hw : ExecWrites s i u) (hne : u.fb ≠ s.fb) :
    i = .cls ∨ ∃ x y n, i = .drwVxVyN x y n := by
  cases hw with
  | clear => exact .inl rfl
  | draw => exact .inr ⟨_, _, _, rfl⟩
  | _ => exact absurd rfl hne

theorem ExecWrites.mem_writer (hw : ExecWrites s i u) (hne : u.mem ≠ s.mem) :
    (∃ x, i = .ldBVx x) ∨ ∃ x, i = .ldMemVx x := by
  cases hw with
  | storeDigits => exact .inl ⟨_, rfl⟩
  | storeRegisters => exact .inr ⟨_, rfl⟩
  | _ => exact absurd rfl hne

theorem ExecWrites.random_writer (hw : ExecWrites s i u)
    (hne : u.rndDraws ≠ s.rndDraws ∨ u.rndSupply ≠ s.rndSupply) : ∃ x nn, i = .rndVxNn x nn := by
  cases hw with
  | random => exact ⟨_, _, rfl⟩
  | _ => simp at hne

theorem State.eq_of_setV_getV_ne {x r : RegIx} {b : Byte} (hne : (s.setV x b).getV r ≠ s.getV r) : r = x := by
  by_contra hr
  exact hne (s.setV_getV_ne hr b)

theorem ExecWrites.register_writer (hw : ExecWrites s i u) {r : RegIx} (hne : u.getV r ≠ s.getV r) :
    writesRegister i r = true := by
  cases hw with
  | register b hi => rw [hi, beq_iff_eq]; exact State.eq_of_setV_getV_ne hne
  | resultAndFlag b flag hi =>
    rw [writeResultThenFlag_getV] at hne
    rw [hi, Bool.or_eq_true, beq_iff_eq, beq_iff_eq]
    by_contra hr
    obtain ⟨hx, hf⟩ := not_or.1 hr
    exact hne (by rw [if_neg hf, if_neg hx])
  | random b => exact beq_iff_eq.2 (State.eq_of_setV_getV_ne (s := s.consumeRandom) hne)
  | draw f b => exact beq_iff_eq.2 (State.eq_of_setV_getV_ne (s := s.setFb f) hne)
  | loadRegisters f hf =>
    rw [State.setAllV_getV] at hne
    exact decide_eq_true (not_not.1 fun hr => hne (hf r hr))
  | _ => exact absurd rfl hne

end

/-! ### The random source (R25; log 1) -/

theorem supplyRandom_frame (s : State) (b : Byte) : OnlyChanges (· = .rndSupply) s (s.supplyRandom b) := by
  intro p hp
  cases p with
  | rndSupply => exact absurd rfl hp
  | _ => rfl

/-- Consuming `n` bytes takes the oldest `n` from the supply. -/
theorem State.iterate_consumeRandom_rndSupply (n : Nat) (s : State) :
    (State.consumeRandom^[n] s).rndSupply = s.rndSupply.drop n := by
  induction n with
  | zero => rfl
  | succ n ih => rw [Function.iterate_succ_apply', State.consumeRandom_rndSupply, ih, List.tail_drop]

end Sys2Proof.Machine

open Sys2Proof Sys2Proof.Machine

/-- Settles O17: a next state is the instruction's writes and then PC, and the writes of each piece name their instructions; a
latched fault leaves every one of these pieces alone. -/
theorem specialStateWriters : Obligations.SpecialStateWriters := by
  intro i s t h
  obtain ⟨u, a, hw, rfl⟩ | ⟨e, info, rfl⟩ := exec_next_cases h
  · exact ⟨hw.key_eq, hw.regI_writer, hw.sp_writer, hw.stack_writer, hw.dt_writer, hw.st_writer, hw.fb_writer,
      hw.mem_writer, hw.random_writer⟩
  · simp

/-- Settles O18: the registers an instruction's writes can change are those the table of R12 names; its end and a latched fault
change none. -/
theorem registerWriters : Obligations.RegisterWriters := by
  intro i s t r h hne
  obtain ⟨u, a, hw, rfl⟩ | ⟨e, info, rfl⟩ := exec_next_cases h
  · exact hw.register_writer hne
  · exact absurd rfl hne

/-- Settles O40: the bytes waiting before the supplied one are consumed first, and then it is the oldest. -/
theorem randomSourceDeliversSupply : Obligations.RandomSourceDeliversSupply := by
  intro s b
  refine ⟨⟨s.supplyRandom b, rfl, rfl, supplyRandom_frame s b, ?_⟩, s.randomByte_nil⟩
  rintro n rfl
  refine State.randomByte_cons _ (bs := []) ?_
  rw [State.iterate_consumeRandom_rndSupply, State.supplyRandom_rndSupply, List.drop_left]
end

section
/-!
Proofs of the statements of spec/20_memory.md: the two bytes of a fetched word, the bytes LD [I],Vx stores and the next fetch of them,
and the Load operation.
-/

namespace Sys2Proof

/-! ### The two bytes of a word (R43) -/

@[simp] theorem wordOfBytes_toNat (hi lo : Byte) : (wordOfBytes hi lo).toNat = hi.toNat * 256 + lo.toNat := by
  rw [wordOfBytes, BitVec.toNat_append, ← Nat.shiftLeft_add_eq_or_of_lt lo.isLt, Nat.shiftLeft_eq]

@[simp] theorem hiByte_wordOfBytes (hi lo : Byte) : hiByte (wordOfBytes hi lo) = hi :=
  BitVec.extractLsb'_append_eq_left

@[simp] theorem loByte_wordOfBytes (hi lo : Byte) : loByte (wordOfBytes hi lo) = lo :=
  BitVec.extractLsb'_append_eq_right

end Sys2Proof

namespace Sys2Proof.Machine

variable (s : State)

/-! ### The bytes LD [I],Vx stores (R154) -/

/-- LD [I],Vx within memory stores the registers and then moves PC to the next instruction. -/
theorem exec_ldMemVx_fits (x : RegIx) (h : s.regI.toNat + x.val ≤ 0xFFFF) :
    exec (.ldMemVx x) s =
      .next ((s.setMem (Memory.writeBytes s.mem s.regI.toNat (registersUpTo x s))).setPc (s.pc + 2)) :=
  execLdMemVx_fits x s h

/-- Each byte of the stored block is the register of its offset. -/
theorem read_writeBytes_registersUpTo {x k : RegIx} (hm : Memory.wf s.mem = true) (h : s.regI.toNat + x.val ≤ 0xFFFF)
    (hk : k ≤ x) : Memory.read (Memory.writeBytes s.mem s.regI.toNat (registersUpTo x s)) (s.regI.toNat + k.val) = s.getV k := by
  have hlen := registersUpTo_length s x
  have hkx : k.val ≤ x.val := hk
  rw [Memory.read_writeBytes_inside (by omega) hm k.val (by omega), registersUpTo_getElem]

/-! ### Load (R50) -/

theorem loadReply_accepted (image : List Byte) (h : image.length ≤ 65024) : loadReply image = .done := by
  rw [loadReply, if_pos (maxImageLength_eq ▸ h)]

theorem loadReply_refused (image : List Byte) (h : 65024 < image.length) : loadReply image = .loadRefused .outOfBounds := by
  rw [loadReply, if_neg (maxImageLength_eq ▸ Nat.not_le.2 h)]

theorem State.load_frame (image : List Byte) :
    OnlyChanges (fun p => ∃ k < image.length, p = .mem (0x200 + k)) s (s.load image) := by
  rcases Nat.lt_or_ge 65024 image.length with h | h
  · rw [State.load_refused s image h]
    exact .refl _ s
  · rw [State.load_accepted s image h]
    exact writeBytes_frame s 0x200 image

/-- An accepted image stands in memory from 0x200 on. -/
theorem State.load_readMem {image : List Byte} (h : image.length ≤ 65024) (hm : Memory.wf s.mem = true) (k : Nat)
    (hk : k < image.length) : (s.load image).readMem (0x200 + k) = image[k] := by
  rw [State.load_accepted s image h]
  exact Memory.read_writeBytes_inside (by omega) hm k hk

end Sys2Proof.Machine

open Sys2Proof Sys2Proof.Machine

/-- Settles O8: the fetched word is made of the bytes at PC and PC + 1, and each of them can be taken from it again. -/
theorem fetchIsBigEndian : Obligations.FetchIsBigEndian := fun _ =>
  ⟨wordOfBytes_toNat _ _, hiByte_wordOfBytes _ _, loByte_wordOfBytes _ _⟩

/-- Settles O20: the next fetch is at I + k, inside the stored block, so its two bytes are the registers of offsets k and k + 1. -/
theorem storeSeenByNextFetch : Obligations.StoreSeenByNextFetch := by
  intro x k j s t hm hfits hkj hjx hpc hexec
  rw [exec_ldMemVx_fits s x hfits] at hexec
  cases hexec
  have hkx : k ≤ x := Nat.le_trans (Nat.le_of_lt (by omega : k.val < j.val)) hjx
  have hnext : (s.pc + 2).toNat = s.regI.toNat + k.val := by rw [hpc, BitVec.toNat_add]; rfl
  have hk := read_writeBytes_registersUpTo s hm hfits hkx
  have hj := read_writeBytes_registersUpTo s hm hfits hjx
  simp only [State.fetchWord, State.setPc_pc, State.setPc_readMem, State.setMem_readMem, hnext]
  rw [hk, Nat.add_assoc, hkj, hj]

/-- Settles O56: by the two cases of Load, the accepted image and the one refused as a whole. -/
theorem loadCopiesImage : Obligations.LoadCopiesImage := by
  intro image s
  constructor
  · intro h
    exact ⟨loadReply_accepted image h, s.load image, rfl, s.load_frame image, s.load_readMem h⟩
  · intro h
    exact ⟨loadReply_refused image h, congrArg Host.Outcome.next (s.load_refused image h)⟩
end

section
/-!
Proofs of the statements of spec/30_encoding.md: the decoder answers `i` on exactly the word of a well-formed `i`
(`decodeWord_eq_instr_iff`) and rejects exactly the classes of R66 (`decodeWord_eq_rejected_iff`); a row of the opcode map selects
exactly the words of its instruction.
-/

namespace Sys2Proof

/-! ### A word from its selector fields (R61) -/

section
variable {w : Word} {p : Nibble}

theorem wordNNN_of_primary (hp : fieldP w = p) : wordNNN p (fieldNNN w) = w := hp ▸ wordNNN_of_fields w

theorem wordXNN_of_primary (hp : fieldP w = p) : wordXNN p (fieldX w) (fieldNN w) = w := hp ▸ wordXNN_of_fields w

theorem wordXYN_of_primary (hp : fieldP w = p) : wordXYN p (fieldX w) (fieldY w) (fieldN w) = w := hp ▸ wordXYN_of_fields w

theorem wordXNN_of_lowByte {nn : Byte} (hp : fieldP w = p) (hn : fieldNN w = nn) : wordXNN p (fieldX w) nn = w :=
  hn ▸ wordXNN_of_primary hp

theorem wordXYN_of_lowNibble {n : Nibble} (hp : fieldP w = p) (hn : fieldN w = n) :
    wordXYN p (fieldX w) (fieldY w) n = w :=
  hn ▸ wordXYN_of_primary hp

/-! ### The fields a mask keeps (R65) -/

theorem fieldP_of_and_primary (h : w &&& 0xF000 = wordNNN p 0) : fieldP w = p := by
  rw [← wordNNN_of_fields w, wordNNN_and_mask] at h
  simpa using congrArg fieldP h

theorem wordXNN_of_and_lowByte {nn : Byte} (h : w &&& 0xF0FF = wordXNN p 0 nn) : wordXNN p (fieldX w) nn = w := by
  rw [← wordXNN_of_fields w, wordXNN_and_lowByte] at h
  exact wordXNN_of_lowByte (by simpa using congrArg fieldP h) (by simpa using congrArg fieldNN h)

theorem wordXYN_of_and_lowNibble {n : Nibble} (h : w &&& 0xF00F = wordXYN p 0 0 n) :
    wordXYN p (fieldX w) (fieldY w) n = w := by
  rw [← wordXYN_of_fields w, wordXYN_and_lowNibble] at h
  exact wordXYN_of_lowNibble (by simpa using congrArg fieldP h) (by simpa using congrArg fieldN h)

end

/-! ### The operands of SYS (R101) -/

theorem wordNNN_inj {p : Nibble} {a b : Addr12} : wordNNN p a = wordNNN p b ↔ a = b :=
  ⟨fun h => by simpa using congrArg fieldNNN h, congrArg _⟩

/-- The operands of SYS are those whose word is neither CLS nor RET. -/
theorem sysOperandOk_iff (nnn : Addr12) :
    sysOperandOk nnn = true ↔ wordNNN 0x0 nnn ≠ 0x00E0 ∧ wordNNN 0x0 nnn ≠ 0x00EE := by
  have hcls : (0x00E0 : Word) = wordNNN 0x0 0x0E0 := by decide
  have hret : (0x00EE : Word) = wordNNN 0x0 0x0EE := by decide
  rw [hcls, hret, Ne, Ne, wordNNN_inj, wordNNN_inj]
  simp [sysOperandOk]

/-! ### The groups of the decode procedure (R64) -/

section
variable {w : Word}

theorem decodeWord_group0 (hp : fieldP w = 0x0) : decodeWord w = decodeGroup0 w := by simp [decodeWord, hp]
theorem decodeWord_group8 (hp : fieldP w = 0x8) : decodeWord w = decodeGroup8 w := by simp [decodeWord, hp]
theorem decodeWord_groupE (hp : fieldP w = 0xE) : decodeWord w = decodeGroupE w := by simp [decodeWord, hp]
theorem decodeWord_groupF (hp : fieldP w = 0xF) : decodeWord w = decodeGroupF w := by simp [decodeWord, hp]

end

/-! ### The decoder on the word of an instruction -/

theorem decodeWord_encode {i : Instr} (h : i.wellFormed = true) : decodeWord (encode i) = .instr i := by
  cases i with
  | cls | ret => rfl
  | sys nnn =>
    obtain ⟨hcls, hret⟩ := (sysOperandOk_iff nnn).1 h
    rw [encode, decodeWord_group0 (fieldP_wordNNN _ _), decodeGroup0, if_neg hcls, if_neg hret, fieldNNN_wordNNN]
  | skpVx | sknpVx => simp [encode, decodeWord_groupE, decodeGroupE]
  | ldVxDt | ldVxK | ldDtVx | ldStVx | addIVx | ldFVx | ldBVx | ldMemVx | ldVxMem =>
    simp [encode, decodeWord_groupF, decodeGroupF]
  | ldVxVy | orVxVy | andVxVy | xorVxVy | addVxVy | subVxVy | shrVx | subnVxVy | shlVx =>
    simp [encode, decodeWord_group8, decodeGroup8]
  | _ => simp [encode, decodeWord]

/-! ### What an answer of the decoder says of the word -/

/-- The words of a class of R66. A word of 16 bits is never truncated. -/
def Reject.Covers (w : Word) : Reject → Prop
  | .illegal5 => fieldP w = 0x5 ∧ fieldN w ≠ 0
  | .illegal8 => fieldP w = 0x8 ∧ fieldN w ∈ ([0x8, 0x9, 0xA, 0xB, 0xC, 0xD, 0xF] : List Nibble)
  | .illegal9 => fieldP w = 0x9 ∧ fieldN w ≠ 0
  | .illegalE => fieldP w = 0xE ∧ fieldNN w ∉ ([0x9E, 0xA1] : List Byte)
  | .illegalF => fieldP w = 0xF ∧ fieldNN w ∉ ([0x07, 0x0A, 0x15, 0x18, 0x1E, 0x29, 0x33, 0x55, 0x65] : List Byte)
  | .truncated => False

/-- The answer fits the word: it is the word of the instruction, or a word of the class the rejection names. -/
def Decoded.Fits (w : Word) : Decoded → Prop
  | .instr i => encode i = w ∧ i.wellFormed = true
  | .rejected r => r.Covers w

section
variable {w : Word}

theorem decodeGroup0_fits (hp : fieldP w = 0x0) : (decodeGroup0 w).Fits w := by
  unfold decodeGroup0
  split
  case isTrue hcls => exact ⟨hcls.symm, rfl⟩
  case isFalse hcls =>
    split
    case isTrue hret => exact ⟨hret.symm, rfl⟩
    case isFalse hret =>
      have hw := wordNNN_of_primary hp
      exact ⟨hw, (sysOperandOk_iff _).2 (hw.symm ▸ ⟨hcls, hret⟩)⟩

/-- A secondary field that none of the arms of group 8 takes. -/
theorem illegal8_nibble {n : Nibble} (h : ∀ k ∈ [0x0, 0x1, 0x2, 0x3, 0x4, 0x5, 0x6, 0x7, 0xE], n.toNat ≠ k) :
    n ∈ ([0x8, 0x9, 0xA, 0xB, 0xC, 0xD, 0xF] : List Nibble) := by
  revert n
  decide

theorem decodeGroup8_fits (hp : fieldP w = 0x8) : (decodeGroup8 w).Fits w := by
  unfold decodeGroup8
  split
  case h_10 => exact ⟨hp, illegal8_nibble (by simp_all)⟩
  all_goals
    next hn => exact ⟨wordXYN_of_lowNibble hp (BitVec.eq_of_toNat_eq hn), rfl⟩

theorem decodeGroupE_fits (hp : fieldP w = 0xE) : (decodeGroupE w).Fits w := by
  unfold decodeGroupE
  repeat' split
  case isFalse.isFalse hskp hsknp => exact ⟨hp, by simpa using ⟨hskp, hsknp⟩⟩
  all_goals
    next hn => exact ⟨wordXNN_of_lowByte hp hn, rfl⟩

theorem decodeGroupF_fits (hp : fieldP w = 0xF) : (decodeGroupF w).Fits w := by
  unfold decodeGroupF
  split_ifs
  case neg => exact ⟨hp, by simp_all⟩
  all_goals
    next hn => exact ⟨wordXNN_of_lowByte hp hn, rfl⟩

/-- The primary field that is left for the last arm of R64. -/
theorem nibble_eq_F {n : Nibble} (h : ∀ k < 15, n.toNat ≠ k) : n = 0xF := by
  revert n
  decide

theorem decodeWord_fits (w : Word) : (decodeWord w).Fits w := by
  unfold decodeWord
  split
  case h_16 => exact decodeGroupF_fits (nibble_eq_F fun k hk => by interval_cases k <;> assumption)
  case h_1 hp => exact decodeGroup0_fits (BitVec.eq_of_toNat_eq hp)
  case h_9 hp => exact decodeGroup8_fits (BitVec.eq_of_toNat_eq hp)
  case h_15 hp => exact decodeGroupE_fits (BitVec.eq_of_toNat_eq hp)
  case h_6 hp | h_10 hp =>
    split
    case isTrue hn => exact ⟨wordXYN_of_lowNibble (BitVec.eq_of_toNat_eq hp) hn, rfl⟩
    case isFalse hn => exact ⟨BitVec.eq_of_toNat_eq hp, hn⟩
  case h_14 hp => exact ⟨wordXYN_of_primary (BitVec.eq_of_toNat_eq hp), rfl⟩
  case h_2 hp | h_3 hp | h_11 hp | h_12 hp => exact ⟨wordNNN_of_primary (BitVec.eq_of_toNat_eq hp), rfl⟩
  case h_4 hp | h_5 hp | h_7 hp | h_8 hp | h_13 hp => exact ⟨wordXNN_of_primary (BitVec.eq_of_toNat_eq hp), rfl⟩

/-! ### The decoder in two equivalences -/

/-- The decoder answers an instruction on its own word, if it is well formed, and on no other word. -/
theorem decodeWord_eq_instr_iff {i : Instr} : decodeWord w = .instr i ↔ encode i = w ∧ i.wellFormed = true := by
  constructor
  · intro h
    exact (h ▸ decodeWord_fits w : (Decoded.instr i).Fits w)
  · rintro ⟨rfl, h⟩
    exact decodeWord_encode h

theorem decodeWord_of_covers {r : Reject} (h : r.Covers w) : decodeWord w = .rejected r := by
  cases r with
  | truncated => exact h.elim
  | illegal5 | illegal9 =>
    obtain ⟨hp, hn⟩ := h
    unfold decodeWord
    rw [hp]
    exact if_neg hn
  | illegal8 =>
    obtain ⟨hp, hn⟩ := h
    simp only [List.mem_cons, List.not_mem_nil, or_false] at hn
    rw [decodeWord_group8 hp]
    rcases hn with hn | hn | hn | hn | hn | hn | hn <;> simp [decodeGroup8, hn]
  | illegalE =>
    obtain ⟨hp, hn⟩ := h
    simp only [List.mem_cons, List.not_mem_nil, or_false, not_or] at hn
    simp only [decodeWord_groupE hp, decodeGroupE, hn, if_false]
  | illegalF =>
    obtain ⟨hp, hn⟩ := h
    simp only [List.mem_cons, List.not_mem_nil, or_false, not_or] at hn
    simp only [decodeWord_groupF hp, decodeGroupF, hn, if_false]

/-- The decoder rejects exactly the words of a class of R66, by the name of that class. -/
theorem decodeWord_eq_rejected_iff {r : Reject} : decodeWord w = .rejected r ↔ r.Covers w := by
  constructor
  · intro h
    exact (h ▸ decodeWord_fits w : (Decoded.rejected r).Fits w)
  · exact decodeWord_of_covers

/-! ### The rows of the opcode map (R65) -/

/-- The row's mask and match fix the fields of its format: a word that selects it is the word of an instruction with its mnemonic. -/
def OpcodeRow.FixesInstr (r : OpcodeRow) : Prop :=
  ∀ w, r.selects w → ∃ i, i.mnemonic = r.mnemonic ∧ encode i = w ∧ i.wellFormed = true

theorem opcodeRowsA_fixesInstr : ∀ r ∈ opcodeRowsA, r.FixesInstr := by
  simp only [opcodeRowsA, List.forall_mem_cons, List.not_mem_nil, false_imp_iff, implies_true, and_true]
  exact ⟨
    fun w ⟨hm, he⟩ => by
      have hw : wordNNN 0x0 (fieldNNN w) = w := wordNNN_of_primary (fieldP_of_and_primary hm)
      exact ⟨.sys _, rfl, hw, (sysOperandOk_iff _).2 (by rw [hw]; simpa using he)⟩,
    fun _ ⟨hm, _⟩ => ⟨.cls, rfl, hm.symm.trans BitVec.and_allOnes, rfl⟩,
    fun _ ⟨hm, _⟩ => ⟨.ret, rfl, hm.symm.trans BitVec.and_allOnes, rfl⟩,
    fun _ ⟨hm, _⟩ => ⟨.jp _, rfl, wordNNN_of_primary (fieldP_of_and_primary hm), rfl⟩,
    fun _ ⟨hm, _⟩ => ⟨.call _, rfl, wordNNN_of_primary (fieldP_of_and_primary hm), rfl⟩,
    fun _ ⟨hm, _⟩ => ⟨.seVxNn _ _, rfl, wordXNN_of_primary (fieldP_of_and_primary hm), rfl⟩,
    fun _ ⟨hm, _⟩ => ⟨.sneVxNn _ _, rfl, wordXNN_of_primary (fieldP_of_and_primary hm), rfl⟩,
    fun _ ⟨hm, _⟩ => ⟨.seVxVy _ _, rfl, wordXYN_of_and_lowNibble hm, rfl⟩,
    fun _ ⟨hm, _⟩ => ⟨.ldVxNn _ _, rfl, wordXNN_of_primary (fieldP_of_and_primary hm), rfl⟩,
    fun _ ⟨hm, _⟩ => ⟨.addVxNn _ _, rfl, wordXNN_of_primary (fieldP_of_and_primary hm), rfl⟩⟩

theorem opcodeRowsB_fixesInstr : ∀ r ∈ opcodeRowsB, r.FixesInstr := by
  simp only [opcodeRowsB, List.forall_mem_cons, List.not_mem_nil, false_imp_iff, implies_true, and_true]
  exact ⟨
    fun _ ⟨hm, _⟩ => ⟨.ldVxVy _ _, rfl, wordXYN_of_and_lowNibble hm, rfl⟩,
    fun _ ⟨hm, _⟩ => ⟨.orVxVy _ _, rfl, wordXYN_of_and_lowNibble hm, rfl⟩,
    fun _ ⟨hm, _⟩ => ⟨.andVxVy _ _, rfl, wordXYN_of_and_lowNibble hm, rfl⟩,
    fun _ ⟨hm, _⟩ => ⟨.xorVxVy _ _, rfl, wordXYN_of_and_lowNibble hm, rfl⟩,
    fun _ ⟨hm, _⟩ => ⟨.addVxVy _ _, rfl, wordXYN_of_and_lowNibble hm, rfl⟩,
    fun _ ⟨hm, _⟩ => ⟨.subVxVy _ _, rfl, wordXYN_of_and_lowNibble hm, rfl⟩,
    fun _ ⟨hm, _⟩ => ⟨.shrVx _ _, rfl, wordXYN_of_and_lowNibble hm, rfl⟩,
    fun _ ⟨hm, _⟩ => ⟨.subnVxVy _ _, rfl, wordXYN_of_and_lowNibble hm, rfl⟩,
    fun _ ⟨hm, _⟩ => ⟨.shlVx _ _, rfl, wordXYN_of_and_lowNibble hm, rfl⟩,
    fun _ ⟨hm, _⟩ => ⟨.sneVxVy _ _, rfl, wordXYN_of_and_lowNibble hm, rfl⟩,
    fun _ ⟨hm, _⟩ => ⟨.ldINnn _, rfl, wordNNN_of_primary (fieldP_of_and_primary hm), rfl⟩,
    fun _ ⟨hm, _⟩ => ⟨.jpV0Nnn _, rfl, wordNNN_of_primary (fieldP_of_and_primary hm), rfl⟩,
    fun _ ⟨hm, _⟩ => ⟨.rndVxNn _ _, rfl, wordXNN_of_primary (fieldP_of_and_primary hm), rfl⟩,
    fun _ ⟨hm, _⟩ => ⟨.drwVxVyN _ _ _, rfl, wordXYN_of_primary (fieldP_of_and_primary hm), rfl⟩⟩

theorem opcodeRowsC_fixesInstr : ∀ r ∈ opcodeRowsC, r.FixesInstr := by
  simp only [opcodeRowsC, List.forall_mem_cons, List.not_mem_nil, false_imp_iff, implies_true, and_true]
  exact ⟨
    fun _ ⟨hm, _⟩ => ⟨.skpVx _, rfl, wordXNN_of_and_lowByte hm, rfl⟩,
    fun _ ⟨hm, _⟩ => ⟨.sknpVx _, rfl, wordXNN_of_and_lowByte hm, rfl⟩,
    fun _ ⟨hm, _⟩ => ⟨.ldVxDt _, rfl, wordXNN_of_and_lowByte hm, rfl⟩,
    fun _ ⟨hm, _⟩ => ⟨.ldVxK _, rfl, wordXNN_of_and_lowByte hm, rfl⟩,
    fun _ ⟨hm, _⟩ => ⟨.ldDtVx _, rfl, wordXNN_of_and_lowByte hm, rfl⟩,
    fun _ ⟨hm, _⟩ => ⟨.ldStVx _, rfl, wordXNN_of_and_lowByte hm, rfl⟩,
    fun _ ⟨hm, _⟩ => ⟨.addIVx _, rfl, wordXNN_of_and_lowByte hm, rfl⟩,
    fun _ ⟨hm, _⟩ => ⟨.ldFVx _, rfl, wordXNN_of_and_lowByte hm, rfl⟩,
    fun _ ⟨hm, _⟩ => ⟨.ldBVx _, rfl, wordXNN_of_and_lowByte hm, rfl⟩,
    fun _ ⟨hm, _⟩ => ⟨.ldMemVx _, rfl, wordXNN_of_and_lowByte hm, rfl⟩,
    fun _ ⟨hm, _⟩ => ⟨.ldVxMem _, rfl, wordXNN_of_and_lowByte hm, rfl⟩⟩

theorem opcodeMap_fixesInstr {r : OpcodeRow} (h : r ∈ opcodeMap) : r.FixesInstr := by
  rw [opcodeMap, List.mem_append, List.mem_append] at h
  obtain (hA | hB) | hC := h
  · exact opcodeRowsA_fixesInstr r hA
  · exact opcodeRowsB_fixesInstr r hB
  · exact opcodeRowsC_fixesInstr r hC

/-- The word of every well-formed instruction is selected by the row of its mnemonic. -/
theorem rowMatch_statement : ∀ i, Laws.RowMatch.Statement i
  | .sys nnn => Laws.RowMatch.sys nnn
  | .cls => Laws.RowMatch.cls
  | .ret => Laws.RowMatch.ret
  | .jp nnn => Laws.RowMatch.jp nnn
  | .call nnn => Laws.RowMatch.call nnn
  | .seVxNn x nn => Laws.RowMatch.seVxNn x nn
  | .sneVxNn x nn => Laws.RowMatch.sneVxNn x nn
  | .seVxVy x y => Laws.RowMatch.seVxVy x y
  | .ldVxNn x nn => Laws.RowMatch.ldVxNn x nn
  | .addVxNn x nn => Laws.RowMatch.addVxNn x nn
  | .ldVxVy x y => Laws.RowMatch.ldVxVy x y
  | .orVxVy x y => Laws.RowMatch.orVxVy x y
  | .andVxVy x y => Laws.RowMatch.andVxVy x y
  | .xorVxVy x y => Laws.RowMatch.xorVxVy x y
  | .addVxVy x y => Laws.RowMatch.addVxVy x y
  | .subVxVy x y => Laws.RowMatch.subVxVy x y
  | .shrVx x y => Laws.RowMatch.shrVx x y
  | .subnVxVy x y => Laws.RowMatch.subnVxVy x y
  | .shlVx x y => Laws.RowMatch.shlVx x y
  | .sneVxVy x y => Laws.RowMatch.sneVxVy x y
  | .ldINnn nnn => Laws.RowMatch.ldINnn nnn
  | .jpV0Nnn nnn => Laws.RowMatch.jpV0Nnn nnn
  | .rndVxNn x nn => Laws.RowMatch.rndVxNn x nn
  | .drwVxVyN x y n => Laws.RowMatch.drwVxVyN x y n
  | .skpVx x => Laws.RowMatch.skpVx x
  | .sknpVx x => Laws.RowMatch.sknpVx x
  | .ldVxDt x => Laws.RowMatch.ldVxDt x
  | .ldVxK x => Laws.RowMatch.ldVxK x
  | .ldDtVx x => Laws.RowMatch.ldDtVx x
  | .ldStVx x => Laws.RowMatch.ldStVx x
  | .addIVx x => Laws.RowMatch.addIVx x
  | .ldFVx x => Laws.RowMatch.ldFVx x
  | .ldBVx x => Laws.RowMatch.ldBVx x
  | .ldMemVx x => Laws.RowMatch.ldMemVx x
  | .ldVxMem x => Laws.RowMatch.ldVxMem x

theorem opcodeMap_mnemonics_nodup : (opcodeMap.map OpcodeRow.mnemonic).Nodup := by decide

/-- A row of the map selects exactly the words of the instructions with its mnemonic. -/
theorem selects_iff {r : OpcodeRow} (hr : r ∈ opcodeMap) (w : Word) :
    r.selects w ↔ ∃ i, i.mnemonic = r.mnemonic ∧ encode i = w ∧ i.wellFormed = true := by
  constructor
  · exact opcodeMap_fixesInstr hr w
  · rintro ⟨i, hname, rfl, hwf⟩
    obtain ⟨r', hr', hname', hsel⟩ := rowMatch_statement i
    obtain rfl : r' = r := List.inj_on_of_nodup_map opcodeMap_mnemonics_nodup hr' hr (hname'.trans hname)
    exact hsel hwf

end

end Sys2Proof

open Sys2Proof

/-- Settles O1: the two bytes make the word again, and a well-formed instruction's word has the fields the decoder looks for. -/
theorem decodeOfEncode : Obligations.DecodeOfEncode := fun i rest h => by
  rw [encodeBytes, decode_bytesOfWord, decodeWord_encode h]

/-- Settles O2: every answer of the decoder fits its word. -/
theorem encodeOfDecode : Obligations.EncodeOfDecode := fun _ _ => decodeWord_eq_instr_iff.1

/-- Settles O3: row and decoder both pick out the words of the instructions with the row's mnemonic. -/
theorem decodeFollowsOpcodeMap : Obligations.DecodeFollowsOpcodeMap := by
  intro w r hr
  simp only [selects_iff hr, decodeWord_eq_instr_iff, and_comm]

/-- Settles O4: a rejection names a class of R66 that covers the word, and every class but the empty one of truncated words is an
item of the list. -/
theorem illegalWordsAreRejected : Obligations.IllegalWordsAreRejected := by
  intro w
  simp only [decodeWord_eq_rejected_iff]
  constructor
  · rintro ⟨r, h⟩
    cases r with
    | illegal5 => exact .inl h
    | illegal8 => exact .inr (.inl h)
    | illegal9 => exact .inr (.inr (.inl h))
    | illegalE => exact .inr (.inr (.inr (.inl h)))
    | illegalF => exact .inr (.inr (.inr (.inr h)))
    | truncated => exact h.elim
  · rintro (h | h | h | h | h)
    exacts [⟨.illegal5, h⟩, ⟨.illegal8, h⟩, ⟨.illegal9, h⟩, ⟨.illegalE, h⟩, ⟨.illegalF, h⟩]

/-- Settles O5: each word is the encoding of its instruction. -/
theorem exampleWordsDecode : Obligations.ExampleWordsDecode := by
  unfold Obligations.ExampleWordsDecode
  simp only [decodeWord_eq_instr_iff]
  decide
end

section
/-!
Proofs of the statements of spec/40_control_transfer.md: the Step cycle at a decodable word and at the last byte, then each control
transfer, and from RET (R102) and CALL (R104) alone the return of nested calls (R111).
-/

namespace Sys2Proof

/-- Format NNN as a number: the primary field above the twelve bits of the address (R61). -/
theorem wordNNN_toNat (p : Nibble) (nnn : Addr12) : (wordNNN p nnn).toNat = p.toNat * 4096 + nnn.toNat := by
  rw [wordNNN, BitVec.toNat_append, ← Nat.shiftLeft_add_eq_or_of_lt nnn.isLt, Nat.shiftLeft_eq]

end Sys2Proof

namespace Sys2Proof.Machine

variable (s : State)

/-! ### The Step cycle (R100) -/

theorem step_of_decodeWord {i : Instr} (he : s.err = .none) (hpc : s.pc ≠ 0xFFFF)
    (hd : decodeWord s.fetchWord = .instr i) : step s = exec i s := by
  obtain ⟨hne, _⟩ | ⟨_, htop, _⟩ | ⟨_, _, r, hr, _⟩ | ⟨_, _, j, hj, hstep⟩ := step_cases s
  · exact absurd he hne
  · exact absurd htop hpc
  · rw [hd] at hr
    cases hr
  · rw [hd] at hj
    cases hj
    exact hstep

theorem step_at_top (he : s.err = .none) (hpc : s.pc = 0xFFFF) : step s = raisePc .outOfBounds s := by
  obtain ⟨hne, _⟩ | ⟨_, _, hstep⟩ | ⟨_, hne, _⟩ | ⟨_, hne, _⟩ := step_cases s
  · exact absurd he hne
  · exact hstep
  · exact absurd hpc hne
  · exact absurd hpc hne

/-! ### Targets of a transfer -/

theorem State.npc_toNat : s.npc.toNat = (s.pc.toNat + 2) % 65536 := BitVec.toNat_add s.pc 2

/-- The target of JP V0,nnn keeps the whole sum: two zero-extended operands cannot wrap 16 bits (R109). -/
theorem zext12_add_zext8_toNat (nnn : Addr12) (b : Byte) : (zext12 nnn + zext8 b).toNat = nnn.toNat + b.toNat := by
  have hn := nnn.isLt
  have hb := b.isLt
  rw [BitVec.toNat_add, zext12_toNat, zext8_toNat]
  omega

/-- A skip whose test decides `c` moves PC by 4 if `c` holds and by 2 otherwise, and touches nothing else (R14). -/
theorem skipIf_moves {taken : Bool} {c : Prop} [Decidable c] (h : taken = true ↔ c) :
    ∃ t, skipIf taken s = .next t ∧ AdvancesBy (if c then 4 else 2) s t ∧ OnlyChanges (· = .pc) s t :=
  ⟨_, skipIf_eq s taken, if_congr h rfl rfl ▸ advancesBy_skip s taken, setPc_frame s _⟩

/-! ### Runs of instructions -/

variable {s}

theorem execAll_cons_of_next {i : Instr} {t : State} (h : exec i s = .next t) (is : List Instr) :
    execAll (i :: is) s = execAll is t := by
  rw [execAll, h]

theorem execAll_append_of_next (is js : List Instr) : ∀ {s t : State}, execAll is s = .next t →
    execAll (is ++ js) s = execAll js t := by
  induction is with
  | nil =>
    intro s t h
    cases h
    rfl
  | cons i is ih =>
    intro s t h
    rw [execAll] at h
    split at h
    · next u hu =>
      rw [List.cons_append, execAll_cons_of_next hu, ih h]
    · cases h
    · cases h

/-- A piece that holds the same at both ends drops out of a frame. -/
theorem OnlyChanges.except {allowed : Piece → Prop} {t : State} {q : Piece} (h : OnlyChanges allowed s t)
    (hq : q.SameIn s t) : OnlyChanges (fun p => allowed p ∧ p ≠ q) s t := by
  intro p hp
  by_cases he : p = q
  · exact he ▸ hq
  · exact h p fun ha => hp ⟨ha, he⟩

end Sys2Proof.Machine

open Sys2Proof Sys2Proof.Machine

/-- Settles O9: of the four things a Step can be, only the execution of the decoded instruction fits. -/
theorem stepRunsDecodedInstruction : Obligations.StepRunsDecodedInstruction := fun s _ he hpc hd =>
  step_of_decodeWord s he hpc hd

/-- Settles O10: of the four things a Step can be, only the fetch fault fits. -/
theorem fetchAtTopFaults : Obligations.FetchAtTopFaults := fun s he hpc =>
  (step_at_top s he hpc).trans (raisePc_eq s .outOfBounds)

/-- Settles O22: SYS raises with the word of its own encoding, whose primary field is 0. -/
theorem sysRaisesIllegalInstruction : Obligations.SysRaisesIllegalInstruction := by
  intro nnn s
  have hword : (wordNNN 0x0 nnn).toNat = nnn.toNat := by rw [wordNNN_toNat]; exact Nat.zero_add _
  exact ⟨raiseIllegal_eq s _, hword⟩

/-- Settles O23: by the two outcomes of the pop. -/
theorem retPopsReturnAddress : Obligations.RetPopsReturnAddress := by
  intro s
  refine ⟨popAndJump_empty s, fun k hk => ?_⟩
  have hk30 := k.isLt
  have hindex : s.sp.toNat - 1 = k.val := by omega
  have hsp : (s.sp - 1).toNat = k.val := by bv_omega
  refine ⟨_, popAndJump_pops s (by omega) (by omega), hsp, by simp [hindex], ?_⟩
  exact (setSp_frame s _).then_setPc _

/-- Settles O24: the target is the zero-extended operand. -/
theorem jpSetsPc : Obligations.JpSetsPc := fun nnn s =>
  ⟨_, jumpTo_eq s (zext12 nnn), zext12_toNat nnn, setPc_frame s _⟩

/-- Settles O25: by the two outcomes of the push. -/
theorem callPushesReturnAddress : Obligations.CallPushesReturnAddress := by
  intro nnn s
  refine ⟨pushAndJump_full s s.npc (zext12 nnn), fun k hk => ?_⟩
  obtain ⟨k, hk30⟩ := k
  obtain rfl : s.sp.toNat = k := hk
  have hsp : (s.sp + 1).toNat = s.sp.toNat + 1 := by bv_omega
  refine ⟨_, pushAndJump_pushes s s.npc (zext12 nnn) hk30, ?_, hsp, zext12_toNat nnn, ?_⟩
  · simpa using s.npc_toNat
  · exact ((setStackAt_frame s _ _).mono fun _ => .inr).trans ((setSp_frame _ _).mono fun _ => .inl) |>.then_setPc _

/-- Settles O26: the tests of SE and SNE decide equality and inequality of register and immediate. -/
theorem skipOnImmediate : Obligations.SkipOnImmediate := fun _ _ s =>
  ⟨skipIf_moves s beq_iff_eq, skipIf_moves s bne_iff_ne⟩

/-- Settles O27: the tests of SE and SNE decide equality and inequality of the two registers. -/
theorem skipOnRegister : Obligations.SkipOnRegister := fun _ _ s =>
  ⟨skipIf_moves s beq_iff_eq, skipIf_moves s bne_iff_ne⟩

/-- Settles O28: the sum of a 12-bit and an 8-bit operand stays below 2^16. -/
theorem jpV0AddsOffset : Obligations.JpV0AddsOffset := by
  intro nnn s
  have hsum := zext12_add_zext8_toNat nnn (s.getV 0)
  have hn := nnn.isLt
  have hb := (s.getV 0).isLt
  exact ⟨_, jumpTo_eq s _, hsum, by rw [State.setPc_pc, hsum]; omega, setPc_frame s _⟩

/-! ### Nested calls (R111) -/

namespace Sys2Proof.Machine

/-- The run of R111: a CALL to each target, then as many RETs. -/
def nestedCalls (targets : List Addr12) : List Instr := targets.map .call ++ List.replicate targets.length .ret

/-- One level of nesting: the outermost CALL, the inner run, and the RET that answers the CALL. -/
theorem nestedCalls_cons (a : Addr12) (as : List Addr12) : nestedCalls (a :: as) = .call a :: (nestedCalls as ++ [.ret]) := by
  simp [nestedCalls, List.replicate_succ']

/-- What nested calls may change: PC and the stack entries from SP up. -/
def NestedFrame (s : State) (p : Piece) : Prop := p = .pc ∨ ∃ k : Fin 30, s.sp.toNat ≤ k.val ∧ p = .stack k

theorem NestedFrame.of_deeper {s u : State} (h : s.sp.toNat ≤ u.sp.toNat) {p : Piece} : NestedFrame u p → NestedFrame s p
  | .inl hp => .inl hp
  | .inr ⟨k, hk, hp⟩ => .inr ⟨k, h.trans hk, hp⟩

theorem OnlyChanges.stack_below {u w : State} (h : OnlyChanges (NestedFrame u) u w) {k : Fin 30} (hk : k.val < u.sp.toNat) :
    w.stack[k.val] = u.stack[k.val] := by
  refine h (.stack k) ?_
  rintro (hp | ⟨j, hj, hp⟩)
  · cases hp
  · cases hp
    exact absurd hj (Nat.not_le.2 hk)

/-- The frame of one level of nesting: what the CALL, the inner run and the RET change, less SP, which the RET restores. -/
theorem nestedLevel_frame {s u w t : State} {k : Fin 30} (hk : k.val = s.sp.toNat) (hu : u.sp.toNat = k.val + 1) (ht : t.sp = s.sp)
    (hcall : OnlyChanges (fun p => p = .pc ∨ p = .sp ∨ p = .stack k) s u) (hinner : OnlyChanges (NestedFrame u) u w)
    (hret : OnlyChanges (fun p => p = .pc ∨ p = .sp) w t) : OnlyChanges (NestedFrame s) s t := by
  have hcall' : OnlyChanges (fun p => p = .sp ∨ NestedFrame s p) s u := hcall.mono fun p => by
    rintro (hp | hp | hp)
    exacts [.inr (.inl hp), .inl hp, .inr (.inr ⟨k, hk.ge, hp⟩)]
  have hinner' : OnlyChanges (fun p => p = .sp ∨ NestedFrame s p) u w :=
    hinner.mono fun _ hp => .inr (hp.of_deeper (by omega))
  have hret' : OnlyChanges (fun p => p = .sp ∨ NestedFrame s p) w t := hret.mono fun p => by
    rintro (hp | hp)
    exacts [.inr (.inl hp), .inl hp]
  exact (((hcall'.trans hinner').trans hret').except (q := .sp) ht).mono fun _ ⟨hp, hne⟩ => hp.resolve_left hne

/-- A run of nested calls that fits the stack leaves SP and the entries below it as they were; so the RET of each level finds the
address its CALL pushed. With no call at all nothing moves. -/
theorem execAll_nestedCalls (targets : List Addr12) : ∀ s : State, s.sp.toNat + targets.length ≤ 30 →
    ∃ t, execAll (nestedCalls targets) s = .next t ∧ (targets ≠ [] → AdvancesBy 2 s t) ∧ t.sp = s.sp ∧
      OnlyChanges (NestedFrame s) s t := by
  induction targets with
  | nil => exact fun s _ => ⟨s, rfl, fun h => absurd rfl h, rfl, .refl _ s⟩
  | cons a as ih =>
    intro s hfits
    rw [List.length_cons] at hfits
    obtain ⟨k, hk⟩ : ∃ k : Fin 30, s.sp.toNat = k.val := ⟨⟨s.sp.toNat, by omega⟩, rfl⟩
    obtain ⟨u, hcall, hpushed, husp, _, huframe⟩ := (callPushesReturnAddress a s).2 k hk
    obtain ⟨w, hinner, _, hwsp, hwframe⟩ := ih u (by omega)
    obtain ⟨t, hret, htsp, htpc, htframe⟩ := (retPopsReturnAddress w).2 k (hwsp ▸ husp)
    have hkept : w.stack[k.val] = u.stack[k.val] := hwframe.stack_below (by omega)
    have hsp : t.sp = s.sp := BitVec.eq_of_toNat_eq (htsp.trans hk.symm)
    refine ⟨t, ?_, fun _ => ?_, hsp, nestedLevel_frame hk.symm husp hsp huframe hwframe htframe⟩
    · rw [nestedCalls_cons, execAll_cons_of_next hcall, execAll_append_of_next _ _ hinner, execAll_cons_of_next hret]
      rfl
    · rw [AdvancesBy, htpc, hkept, hpushed]

/-- One CALL more than the stack holds: the last one raises StackOverflow with SP = 30. -/
theorem execAll_calls_overflow (targets : List Addr12) : ∀ s : State, targets ≠ [] → s.sp.toNat + targets.length = 31 →
    ∃ t, execAll (targets.map .call) s = .next t ∧ t.err = .stackOverflow ∧ t.sp = 30 := by
  induction targets with
  | nil => exact fun _ h => absurd rfl h
  | cons a as ih =>
    intro s _ hlen
    rw [List.length_cons] at hlen
    rw [List.map_cons]
    by_cases hfull : s.sp.toNat = 30
    · have hsp : s.sp = 30 := BitVec.eq_of_toNat_eq hfull
      obtain rfl : as = [] := List.eq_nil_of_length_eq_zero (by omega)
      exact ⟨_, execAll_cons_of_next ((callPushesReturnAddress a s).1 hsp) _, rfl, hsp⟩
    · obtain ⟨k, hk⟩ : ∃ k : Fin 30, s.sp.toNat = k.val := ⟨⟨s.sp.toNat, by omega⟩, rfl⟩
      obtain ⟨u, hcall, _, husp, _⟩ := (callPushesReturnAddress a s).2 k hk
      have hne : as ≠ [] := List.ne_nil_of_length_pos (by omega)
      rw [execAll_cons_of_next hcall]
      exact ih u hne (by omega)

end Sys2Proof.Machine

/-- Settles O29, by induction on the list of targets, one CALL with its RET at a time. -/
theorem nestedCallsReturn : Obligations.NestedCallsReturn := by
  intro targets s
  refine ⟨fun hne hfits => ?_, execAll_calls_overflow targets s⟩
  obtain ⟨t, hrun, hpc, hsp, hframe⟩ := execAll_nestedCalls targets s hfits
  exact ⟨t, hrun, hpc hne, hsp, hframe⟩
end

section
/-!
Proofs of the statements of spec/41_alu.md. A register instruction ends in one of two ways: one register written, or a result and then
its flag (R132). What each of them leaves behind is proved once; an instruction then adds what its result and its flag are as numbers.
-/

namespace Sys2Proof.Machine

variable (s : State)

/-! ### The two ends of a register instruction (R132) -/

/-- The end of an instruction that writes one register. -/
theorem finish_setV (x : RegIx) (b : Byte) :
    ∃ t, finish (s.setV x b) = .next t ∧ t.getV x = b ∧ AdvancesBy 2 s t ∧ OnlyChanges (fun p => p = .pc ∨ p = .v x) s t :=
  ⟨_, finish_eq _, s.setV_getV_self x b, advancesBy_finish s rfl, (setV_frame s x b).then_setPc _⟩

/-- The end of an instruction that writes one register, its value told bit by bit. -/
theorem finish_setV_bits (x : RegIx) {b : Byte} {g : Nat → Bool} (hb : ∀ j, b.getLsbD j = g j) :
    ∃ t, finish (s.setV x b) = .next t ∧ AdvancesBy 2 s t ∧ OnlyChanges (fun p => p = .pc ∨ p = .v x) s t ∧
      ∀ j, (t.getV x).getLsbD j = g j := by
  obtain ⟨t, ht, hv, hpc, hframe⟩ := finish_setV s x b
  exact ⟨t, ht, hpc, hframe, fun j => hv ▸ hb j⟩

/-- The end of an instruction that writes a result with property `R` and then its flag, `n` as a number: VF holds the flag even where
it is the destination. -/
theorem finish_writeResultThenFlag {R : Byte → Prop} {n : Nat} (x : RegIx) {result : Byte} {flag : Bool} (hr : R result)
    (hf : (flagByte flag).toNat = n) :
    ∃ t, finish (writeResultThenFlag x result flag s) = .next t ∧ (x ≠ vf → R (t.getV x)) ∧ (t.getV vf).toNat = n ∧
      AdvancesBy 2 s t ∧ OnlyChanges (fun p => p = .pc ∨ p = .v x ∨ p = .v vf) s t := by
  refine ⟨_, finish_eq _, fun hx => ?_, ?_, advancesBy_finish s rfl, (writeResultThenFlag_frame s x result flag).then_setPc _⟩
  · rwa [State.setPc_getV, writeResultThenFlag_getV, if_neg hx, if_pos rfl]
  · rwa [State.setPc_getV, writeResultThenFlag_getV, if_pos rfl]

/-! ### Flags as numbers (R15) -/

theorem flagByte_toNat {f : Bool} {c : Prop} [Decidable c] (h : f = true ↔ c) : (flagByte f).toNat = if c then 1 else 0 := by
  rw [← if_congr h rfl rfl]
  cases f <;> rfl

/-- The bit SHR shifts out is the remainder of its division by 2 (R128). -/
theorem flagByte_lowBit_toNat (a : Byte) : (flagByte (lowBit a)).toNat = a.toNat % 2 := by
  rw [flagByte_toNat (lowBit_iff a)]
  split <;> omega

/-- The bit SHL shifts out is the quotient of a byte by 128 (R130). -/
theorem flagByte_highBit_toNat (a : Byte) : (flagByte (highBit a)).toNat = a.toNat / 128 := by
  have ha := a.isLt
  rw [flagByte_toNat (highBit_iff a)]
  split <;> omega

/-! ### Results as numbers (R133) -/

/-- A byte difference is the integer difference modulo 256. -/
theorem byte_sub_toNat (a b : Byte) : ((a - b).toNat : Int) = ((a.toNat : Int) - b.toNat) % 256 := by
  have hb := b.isLt
  rw [BitVec.toNat_sub]
  omega

theorem byte_shiftRight_one_toNat (a : Byte) : (a >>> 1).toNat = a.toNat / 2 := by
  rw [BitVec.toNat_ushiftRight, Nat.shiftRight_one]

theorem byte_shiftLeft_one_toNat (a : Byte) : (a <<< 1).toNat = 2 * a.toNat % 256 := by
  rw [BitVec.toNat_shiftLeft, Nat.shiftLeft_eq, Nat.mul_comm, Nat.pow_one]

/-- A masked byte has no bit outside the mask (R131). -/
theorem and_and_not_mask (a mask : Byte) : a &&& mask &&& ~~~mask = 0 := by
  rw [BitVec.and_assoc, BitVec.and_not_self]
  exact BitVec.and_zero

/-- RND's frame: the source moves first, then one register is written. -/
theorem consumeRandom_setV_frame (x : RegIx) (b : Byte) :
    OnlyChanges (fun p => p = .v x ∨ p = .rndSupply ∨ p = .rndDraws) s (s.consumeRandom.setV x b) :=
  ((consumeRandom_frame s).mono fun _ => .inr).trans ((setV_frame _ x b).mono fun _ => .inl)

end Sys2Proof.Machine

open Sys2Proof Sys2Proof.Machine

/-- Settles O30: the end of an instruction that writes one register, with the immediate. -/
theorem ldImmediate : Obligations.LdImmediate := fun x nn s => finish_setV s x nn

/-- Settles O31: byte addition is addition modulo 256, and only V[x] is written. -/
theorem addImmediateWraps : Obligations.AddImmediateWraps := by
  intro x nn s
  obtain ⟨t, ht, hv, hpc, hframe⟩ := finish_setV s x (s.getV x + nn)
  exact ⟨t, ht, by rw [hv, BitVec.toNat_add], hpc, hframe⟩

/-- Settles O32: the end of an instruction that writes one register, with the value of V[y]. -/
theorem ldRegister : Obligations.LdRegister := fun x y s => finish_setV s x (s.getV y)

/-- Settles O33: only V[x] is written, and the byte operations act on each bit alone. -/
theorem logicBitwise : Obligations.LogicBitwise := fun x _ s =>
  ⟨finish_setV_bits s x fun _ => BitVec.getLsbD_or, finish_setV_bits s x fun _ => BitVec.getLsbD_and,
    finish_setV_bits s x fun _ => BitVec.getLsbD_xor⟩

/-- Settles O34: byte addition is addition modulo 256, and the flag is the carry. -/
theorem addSetsCarry : Obligations.AddSetsCarry := fun x _ s =>
  finish_writeResultThenFlag (R := fun b => b.toNat = _) s x (BitVec.toNat_add _ _) (flagByte_toNat (carryOut_iff _ _))

/-- Settles O35: byte subtraction is subtraction modulo 256, and the flag is the strict comparison. -/
theorem subSetsStrictGreater : Obligations.SubSetsStrictGreater := fun x _ s =>
  finish_writeResultThenFlag (R := fun b => (b.toNat : Int) = _) s x (byte_sub_toNat _ _) (flagByte_toNat (strictlyGreater_iff _ _))

/-- Settles O36: a right shift by one halves, and the flag is the remainder; neither reads V[y]. -/
theorem shrShiftsOutBitZero : Obligations.ShrShiftsOutBitZero := fun x _ s =>
  finish_writeResultThenFlag (R := fun b => b.toNat = _) s x (byte_shiftRight_one_toNat _) (flagByte_lowBit_toNat _)

/-- Settles O37: SUB's argument with the operands exchanged. -/
theorem subnSetsStrictGreater : Obligations.SubnSetsStrictGreater := fun x _ s =>
  finish_writeResultThenFlag (R := fun b => (b.toNat : Int) = _) s x (byte_sub_toNat _ _) (flagByte_toNat (strictlyGreater_iff _ _))

/-- Settles O38: a left shift by one doubles modulo 256, and the flag is the quotient by 128; neither reads V[y]. -/
theorem shlShiftsOutBitSeven : Obligations.ShlShiftsOutBitSeven := fun x _ s =>
  finish_writeResultThenFlag (R := fun b => b.toNat = _) s x (byte_shiftLeft_one_toNat _) (flagByte_highBit_toNat _)

/-- Settles O39: RND writes the masked byte in the state whose source has moved one byte on. -/
theorem rndMasksOneByte : Obligations.RndMasksOneByte := by
  intro x nn s
  obtain ⟨t, ht, hv, hpc, hframe⟩ := finish_setV s.consumeRandom x (s.randomByte &&& nn)
  have hsupply : t.rndSupply = s.rndSupply.tail := hframe .rndSupply (by simp)
  have hdraws : t.rndDraws = s.rndDraws + 1 := hframe .rndDraws (by simp)
  refine ⟨t, ht, hv, hsupply, hdraws, by rw [hv, and_and_not_mask], hpc, ?_⟩
  cases ht
  exact (consumeRandom_setV_frame s x _).then_setPc _
end

section
/-!
Proofs of the statements of spec/42_index_and_memory.md. What an instruction that writes I, a block of memory, or the registers up to
V[x] leaves behind is proved once for each of the three writes; an instruction then adds its value, its digits or its block.
-/

namespace Sys2Proof.Machine

variable (s : State)

/-! ### The three ends of an index or memory instruction (R150 to R156) -/

/-- The end of an instruction that writes I, its new value told as a number. -/
theorem finish_setI {a : Word} {n : Nat} (ha : a.toNat = n) :
    ∃ t, finish (s.setI a) = .next t ∧ t.regI.toNat = n ∧ AdvancesBy 2 s t ∧ OnlyChanges (fun p => p = .pc ∨ p = .regI) s t :=
  ⟨_, finish_eq _, ha, advancesBy_finish s rfl, (setI_frame s a).then_setPc _⟩

/-- The end of an instruction that stores consecutive bytes from `base` on. -/
theorem finish_writeBytes (base : Nat) (bs : List Byte) :
    ∃ t, finish (s.setMem (Memory.writeBytes s.mem base bs)) = .next t ∧ AdvancesBy 2 s t ∧
      OnlyChanges (fun p => p = .pc ∨ ∃ k < bs.length, p = .mem (base + k)) s t ∧
      ∀ a, t.readMem a = Memory.read (Memory.writeBytes s.mem base bs) a :=
  ⟨_, finish_eq _, advancesBy_finish s rfl, (writeBytes_frame s base bs).then_setPc _, fun _ => rfl⟩

/-- The end of an instruction that loads V0 to V[x] and keeps the registers above. -/
theorem finish_loadUpTo (x : RegIx) (f : RegIx → Byte) :
    ∃ t, finish (s.setAllV fun k => if k ≤ x then f k else s.getV k) = .next t ∧ AdvancesBy 2 s t ∧
      (∀ k ≤ x, t.getV k = f k) ∧ OnlyChanges (fun p => p = .pc ∨ ∃ k ≤ x, p = .v k) s t := by
  refine ⟨_, finish_eq _, advancesBy_finish s rfl, fun k hk => ?_, ?_⟩
  · rw [State.setPc_getV, State.setAllV_getV, if_pos hk]
  · refine ((setAllV_frame s _).mono ?_).then_setPc _
    rintro p ⟨k, rfl, hne⟩
    exact ⟨k, not_not.1 fun hk => hne (if_neg hk), rfl⟩

/-! ### The stored bytes (R153) -/

/-- Within memory each byte of the stored block is the digit of its offset. -/
theorem read_writeBytes_bcdDigits_toNat {base : Nat} (b : Byte) (hm : Memory.wf s.mem = true) (h : base + 2 ≤ 0xFFFF) (k : Nat)
    (hk : k < 3) : (Memory.read (Memory.writeBytes s.mem base (bcdDigits b)) (base + k)).toNat =
      [b.toNat / 100, b.toNat / 10 % 10, b.toNat % 10][k] := by
  have hlen := bcdDigits_length b
  rw [Memory.read_writeBytes_inside (by omega) hm k (by omega), ← List.getElem_map BitVec.toNat]
  · simp only [bcdDigits_toNat]
  · simpa using hk

end Sys2Proof.Machine

open Sys2Proof Sys2Proof.Machine

/-- Settles O41: the value written to I is the zero-extended operand. -/
theorem ldIndexImmediate : Obligations.LdIndexImmediate := fun nnn s => finish_setI s (zext12_toNat nnn)

/-- Settles O42: word addition is addition modulo 2^16, and only I is written. -/
theorem addIndexWraps : Obligations.AddIndexWraps := fun x s =>
  finish_setI s (by rw [BitVec.toNat_add, zext8_toNat])

/-- Settles O43: five times a byte does not wrap a word. -/
theorem ldFontAddress : Obligations.LdFontAddress := fun x s => finish_setI s (fontAddress_toNat (s.getV x))

/-- Settles O44: by the two outcomes of the access; the stored block is the three digits. -/
theorem ldBcdStoresDigits : Obligations.LdBcdStoresDigits := by
  intro x s
  refine ⟨execLdBVx_outOfBounds x s, fun hfits => ?_⟩
  obtain ⟨t, ht, hpc, hframe, hread⟩ := finish_writeBytes s s.regI.toNat (bcdDigits (s.getV x))
  refine ⟨t, (execLdBVx_fits x s hfits).trans ht, hpc, hframe.mono ?_, fun hm => ?_⟩
  · rintro p (hp | ⟨k, hk, rfl⟩)
    · exact .inl hp
    · rw [bcdDigits_length] at hk
      obtain rfl | rfl | rfl : k = 0 ∨ k = 1 ∨ k = 2 := by omega
      exacts [.inr (.inl rfl), .inr (.inr (.inl rfl)), .inr (.inr (.inr rfl))]
  · have hdigit := read_writeBytes_bcdDigits_toNat s (s.getV x) hm hfits
    simp only [hread]
    exact ⟨hdigit 0 (by omega), hdigit 1 (by omega), hdigit 2 (by omega)⟩

/-- Settles O45: by the two outcomes of the access; the stored block is the registers V0 to V[x]. -/
theorem ldStoresRegisters : Obligations.LdStoresRegisters := by
  intro x s
  refine ⟨execLdMemVx_outOfBounds x s, fun hfits => ?_⟩
  obtain ⟨t, ht, hpc, hframe, hread⟩ := finish_writeBytes s s.regI.toNat (registersUpTo x s)
  refine ⟨t, (execLdMemVx_fits x s hfits).trans ht, hpc, hframe.mono ?_, fun hm k hk => ?_⟩
  · rintro p (hp | ⟨k, hk, rfl⟩)
    · exact .inl hp
    · rw [registersUpTo_length] at hk
      exact .inr ⟨⟨k, by omega⟩, Nat.le_of_lt_succ hk, rfl⟩
  · rw [hread, read_writeBytes_registersUpTo s hm hfits hk]

/-- Settles O46: by the two outcomes of the access; the loaded registers are the bytes from I on. -/
theorem ldLoadsRegisters : Obligations.LdLoadsRegisters := by
  intro x s
  refine ⟨execLdVxMem_outOfBounds x s, fun hfits => ?_⟩
  obtain ⟨t, ht, hpc, hloaded, hframe⟩ := finish_loadUpTo s x fun k => s.readMem (s.regI.toNat + k.val)
  exact ⟨t, (execLdVxMem_fits x s hfits).trans ht, hpc, hloaded, hframe⟩
end

section
/-!
Proofs of the statements of spec/43_display.md. The laws of the draw loop speak of cells by column and row; here they are told of the
pixels 0 to 2047 and of `SpriteCovers`. The involution (R172) then follows from the statement of DRW alone.
-/

namespace Sys2Proof.Machine

/-! ### Pixels by column and row (R22) -/

/-- The column and the row of pixel `k`. -/
def pixelCell (k : Fin 2048) : Fin 64 × Fin 32 := (⟨k.val % 64, by omega⟩, ⟨k.val / 64, by omega⟩)

theorem pixelCell_eq_iff {k : Fin 2048} {px : Fin 64} {py : Fin 32} :
    pixelCell k = (px, py) ↔ k.val = py.val * 64 + px.val := by
  simp only [pixelCell, Prod.mk.injEq, Fin.ext_iff]
  omega

theorem pixelCell_surjective : Function.Surjective pixelCell := fun (px, py) =>
  ⟨⟨py.val * 64 + px.val, by omega⟩, pixelCell_eq_iff.2 rfl⟩

variable (x y : RegIx) (n : Nibble) (s : State)

theorem State.pixel_eq_cell (k : Fin 2048) : s.pixel k = Framebuffer.cell s.fb (pixelCell k).1 (pixelCell k).2 := rfl

theorem State.setFb_clear_pixel (k : Fin 2048) : (s.setFb Framebuffer.clear).pixel k = false := by
  simp [State.pixel, Framebuffer.cell, Framebuffer.clear]

/-! ### What DRW draws (R171) -/

/-- The cells DRW's set sprite bits land on. -/
def drawnCells : List (Fin 64 × Fin 32) :=
  spriteCells (s.getV x).toNat (s.getV y).toNat 0 (Memory.readBytes s.mem s.regI.toNat n.toNat)

theorem pixelCell_mem_drawnCells (k : Fin 2048) :
    pixelCell k ∈ drawnCells x y n s ↔ SpriteCovers s (s.getV x) (s.getV y) n k := by
  simp only [drawnCells, mem_spriteCells, Memory.readBytes_length, Memory.readBytes_getElem, pixelCell_eq_iff, exists_prop,
    Nat.zero_add]
  rfl

theorem sprite_length_le : (Memory.readBytes s.mem s.regI.toNat n.toNat).length ≤ 32 := by
  rw [Memory.readBytes_length]
  omega

theorem drawn_pixel (k : Fin 2048) :
    (s.setFb (drawn x y n s).1).pixel k = (s.pixel k ^^ decide (pixelCell k ∈ drawnCells x y n s)) := by
  rw [State.pixel_eq_cell, State.pixel_eq_cell, State.setFb_fb, drawn, drawRows_cell _ _ _ _ (sprite_length_le n s), drawnCells]

theorem drawn_pixel_of_covers {k : Fin 2048} (h : SpriteCovers s (s.getV x) (s.getV y) n k) :
    (s.setFb (drawn x y n s).1).pixel k = !s.pixel k := by
  rw [drawn_pixel, decide_eq_true ((pixelCell_mem_drawnCells x y n s k).2 h), Bool.xor_true]

theorem drawn_pixel_of_not_covers {k : Fin 2048} (h : ¬ SpriteCovers s (s.getV x) (s.getV y) n k) :
    (s.setFb (drawn x y n s).1).pixel k = s.pixel k := by
  rw [drawn_pixel, decide_eq_false (mt (pixelCell_mem_drawnCells x y n s k).1 h), Bool.xor_false]

/-- The collision flag: a set sprite bit lands on a pixel lit before the instruction. -/
theorem drawn_flag_iff :
    (drawn x y n s).2 = true ↔ ∃ k, SpriteCovers s (s.getV x) (s.getV y) n k ∧ s.pixel k = true := by
  rw [drawn, drawRows_flag _ _ _ _ (sprite_length_le n s), or_iff_right Bool.false_ne_true, pixelCell_surjective.exists]
  exact exists_congr fun k => and_congr_left' (pixelCell_mem_drawnCells x y n s k)

/-- DRW's frame: the covered pixels, and VF. -/
theorem drawn_frame (b : Byte) :
    OnlyChanges (fun p => p = .v vf ∨ ∃ k, p = .pixel k ∧ SpriteCovers s (s.getV x) (s.getV y) n k) s
      ((s.setFb (drawn x y n s).1).setV vf b) := by
  refine ((setFb_frame s _).mono ?_).trans ((setV_frame _ vf b).mono fun _ => .inl)
  rintro p ⟨k, rfl, hne⟩
  exact .inr ⟨k, rfl, not_not.1 fun h => hne (drawn_pixel_of_not_covers x y n s h)⟩

/-! ### The two outcomes of DRW (R171) -/

theorem exec_drw_outOfBounds (h : ¬ (n = 0 ∨ s.regI.toNat + n.toNat - 1 ≤ 0xFFFF)) :
    FaultsWith .outOfBounds s (exec (.drwVxVyN x y n) s) := by
  obtain ⟨h0, hout⟩ := not_or.1 h
  exact (execDrwVxVyN_outOfBounds x y n s h0 (by bv_omega)).trans (raisePc_eq s .outOfBounds)

theorem exec_drw_fits (h : n = 0 ∨ s.regI.toNat + n.toNat - 1 ≤ 0xFFFF) :
    exec (.drwVxVyN x y n) s = finish ((s.setFb (drawn x y n s).1).setV vf (flagByte (drawn x y n s).2)) :=
  execDrwVxVyN_fits x y n s (by bv_omega)

end Sys2Proof.Machine

open Sys2Proof Sys2Proof.Machine

/-- Settles O47: each row of the clear framebuffer is 0, and only pixels are written. -/
theorem clsClearsFramebuffer : Obligations.ClsClearsFramebuffer := by
  intro s
  refine ⟨_, finish_eq (s.setFb Framebuffer.clear), s.setFb_clear_pixel, advancesBy_finish s rfl, ?_⟩
  exact ((setFb_frame s _).mono fun _ ⟨k, hk, _⟩ => ⟨k, hk⟩).then_setPc _

/-- Settles O48: by the two outcomes of DRW; the draw loop flips the covered pixels, and its flag is VF. -/
theorem drwXorsSprite : Obligations.DrwXorsSprite := by
  intro x y n s
  refine ⟨fun hn hout => exec_drw_outOfBounds x y n s (by bv_omega), fun hfits => ?_⟩
  refine ⟨_, (exec_drw_fits x y n s hfits).trans (finish_eq _), advancesBy_finish s rfl,
    fun k => drawn_pixel_of_covers x y n s, fun hlit => ?_, fun hdark => ?_, (drawn_frame x y n s _).then_setPc _⟩
  · rw [State.setPc_getV, State.setV_getV_self, flagByte_eq_one, drawn_flag_iff]
    exact hlit
  · rw [State.setPc_getV, State.setV_getV_self, flagByte_eq_zero, Bool.eq_false_iff, Ne, drawn_flag_iff]
    exact hdark

/-- Settles O49: DRW leaves I and memory alone, so at the same origin the second DRW covers the same pixels and flips each of them
back; a DRW out of range faults twice. -/
theorem drawTwiceRestores : Obligations.DrawTwiceRestores := by
  intro x y n s
  by_cases hfits : n = 0 ∨ s.regI.toNat + n.toNat - 1 ≤ 0xFFFF
  · obtain ⟨t, ht, _, hflip, _, _, hframe⟩ := (drwXorsSprite x y n s).2 hfits
    refine ⟨t, ht, fun hx hy => ?_⟩
    have hI : t.regI = s.regI := hframe .regI (by simp)
    have hmem : ∀ a, t.readMem a = s.readMem a := fun a => hframe (.mem a) (by simp)
    have hcovers : ∀ k, SpriteCovers t (t.getV x) (t.getV y) n k ↔ SpriteCovers s (s.getV x) (s.getV y) n k := by
      simp only [SpriteCovers, hI, hmem, hx, hy, implies_true]
    obtain ⟨u, hu, _, hflip', _, _, hframe'⟩ := (drwXorsSprite x y n t).2 (hI.symm ▸ hfits)
    refine ⟨u, hu, fun k => ?_⟩
    by_cases hk : SpriteCovers s (s.getV x) (s.getV y) n k
    · rw [hflip' k ((hcovers k).2 hk), hflip k hk, Bool.not_not]
    · have hfirst : t.pixel k = s.pixel k := hframe (.pixel k) (by simpa using hk)
      have hsecond : u.pixel k = t.pixel k := hframe' (.pixel k) (by simpa [hcovers] using hk)
      exact hsecond.trans hfirst
  · exact ⟨_, exec_drw_outOfBounds x y n s hfits, fun _ _ => ⟨_, exec_drw_outOfBounds x y n _ hfits, fun _ => rfl⟩⟩
end

section
/-!
Proofs of the statements of spec/44_timers_and_keys.md. The wait for a key (R183) has two outcomes in block mode, one for a smallest key
that is down and one for none; the skips (R184, R185) are the skip of R14 on one key flag.
-/

namespace Sys2Proof.Machine

variable (x : RegIx) (s : State)

/-! ### Key numbers (R183, R184) -/

theorem byteOfKey_toNat (k : RegIx) : (byteOfKey k).toNat = k.val :=
  (BitVec.toNat_ofNat k.val 8).trans (Nat.mod_eq_of_lt (by omega))

theorem keyNumber_eq {k : RegIx} {b : Byte} (h : k.val = b.toNat % 16) : keyNumber b = k :=
  Fin.ext ((keyNumber_val b).trans h.symm)

/-! ### The outcomes of the wait for a key (R183) -/

/-- LD Vx,K waits in block mode: this hardware's setting. -/
theorem exec_ldVxK_eq : exec (.ldVxK x) s = waitForKey .block x s := rfl

theorem waitForKey_block_of_some {k : RegIx} (h : lowestKeyDown s = some k) :
    waitForKey .block x s = finish (s.setV x (byteOfKey k)) := by
  rw [waitForKey, h]

/-- With no key down PC is assigned its own value, so the next state is the same state. -/
theorem waitForKey_block_of_none (h : lowestKeyDown s = none) : waitForKey .block x s = .next s := by
  rw [waitForKey, h]
  exact jumpTo_eq s s.pc

end Sys2Proof.Machine

open Sys2Proof Sys2Proof.Machine

/-- Settles O50: the end of an instruction that writes one register, with the value of DT. -/
theorem ldReadsDelayTimer : Obligations.LdReadsDelayTimer := fun x s => finish_setV s x s.dt

/-- Settles O51: each instruction ends right after the write of its one timer. -/
theorem ldWritesTimers : Obligations.LdWritesTimers := fun x s =>
  ⟨⟨_, finish_eq (s.setDt (s.getV x)), rfl, advancesBy_finish s rfl, (setDt_frame s _).then_setPc _⟩,
    ⟨_, finish_eq (s.setSt (s.getV x)), rfl, advancesBy_finish s rfl, (setSt_frame s _).then_setPc _⟩⟩

/-- Settles O52: by the outcomes of the wait; in noop mode nothing is left but the advance of PC. -/
theorem ldWaitsForKey : Obligations.LdWaitsForKey := by
  intro x s
  refine ⟨fun k hdown hlow => ?_, fun hup => ?_, ?_⟩
  · obtain ⟨t, ht, hv, hpc, hframe⟩ := finish_setV s x (byteOfKey k)
    have hk : lowestKeyDown s = some k := lowestKeyDown_of_first s hdown hlow
    exact ⟨t, (waitForKey_block_of_some x s hk).trans ht, by rw [hv, byteOfKey_toNat], hpc, hframe⟩
  · rw [exec_ldVxK_eq, waitForKey_block_of_none x s ((lowestKeyDown_eq_none s).2 hup)]
  · exact ⟨_, finish_eq s, advancesBy_finish s rfl, setPc_frame s _⟩

/-- Settles O53: the key tested is the one of the low 4 bits, and each skip decides its flag. -/
theorem skipOnKey : Obligations.SkipOnKey := by
  intro x k s hk
  obtain rfl : keyNumber (s.getV x) = k := keyNumber_eq hk
  exact ⟨skipIf_moves s Iff.rfl, skipIf_moves s (iff_of_eq (Bool.not_eq_true' _))⟩
end

section
/-!
Proofs of the statements of spec/60_exceptions.md. The closed list of faults (R200) is said once, for an instruction (`ExecFault`) and for
a Step (`StepFault`): under a listed condition the fault is latched and nothing else happens, under none of them the latch is kept. The
precision of a fault, its exact conditions and the invariant of every legal state are read off from these two facts.
-/

namespace Sys2Proof.Machine

/-! ### The faults of an instruction (R200) -/

/-- The faults of R200 that an instruction raises, each with its condition. -/
inductive ExecFault (s : State) : Instr → Err → Prop where
  | sys {nnn : Addr12} : ExecFault s (.sys nnn) .illegalInstruction
  | ret (h : s.sp = 0) : ExecFault s .ret .stackUnderflow
  | call {nnn : Addr12} (h : s.sp = 30) : ExecFault s (.call nnn) .stackOverflow
  | draw {x y : RegIx} {n : Nibble} (hn : n.toNat ≥ 1) (h : s.regI.toNat + n.toNat - 1 > 0xFFFF) :
      ExecFault s (.drwVxVyN x y n) .outOfBounds
  | storeDigits {x : RegIx} (h : s.regI.toNat + 2 > 0xFFFF) : ExecFault s (.ldBVx x) .outOfBounds
  | storeRegisters {x : RegIx} (h : s.regI.toNat + x.val > 0xFFFF) : ExecFault s (.ldMemVx x) .outOfBounds
  | loadRegisters {x : RegIx} (h : s.regI.toNat + x.val > 0xFFFF) : ExecFault s (.ldVxMem x) .outOfBounds

/-- What a fault records: the PC, and for IllegalInstruction the word `op` too (R200). -/
def State.faultInfo (s : State) (op : Word) (e : Err) : ErrInfo :=
  if e = .illegalInstruction then .pcOp s.pc op else .pc s.pc

section
variable {s t : State} {i : Instr} {e : Err}

/-- An instruction with a listed condition latches its fault and does nothing else. -/
theorem exec_of_execFault (h : ExecFault s i e) : exec i s = .next (s.latch e (s.faultInfo (encode i) e)) := by
  cases h with
  | sys => exact (sysRaisesIllegalInstruction _ s).1
  | ret h => exact (retPopsReturnAddress s).1 h
  | call h => exact (callPushesReturnAddress _ s).1 h
  | draw hn h => exact (drwXorsSprite _ _ _ s).1 hn h
  | storeDigits h => exact (ldBcdStoresDigits _ s).1 h
  | storeRegisters h => exact (ldStoresRegisters _ s).1 h
  | loadRegisters h => exact (ldLoadsRegisters _ s).1 h

/-- From `s` to `t` the fault latch stays as it is. -/
def KeepsLatch (s t : State) : Prop := t.err = s.err ∧ t.errInfo = s.errInfo

/-- The list is closed: an instruction keeps the latch, or has a listed condition, or makes the stop at SP = 31 (log 5). -/
theorem exec_latch_cases (s : State) (i : Instr) :
    (∃ t, exec i s = .next t ∧ KeepsLatch s t) ∨ (∃ e, ExecFault s i e) ∨
      (30 < s.sp.toNat ∧ exec i s = .fault .stackIndex) := by
  cases i with
  | sys nnn => exact .inr (.inl ⟨_, .sys⟩)
  | ret =>
    rcases Nat.eq_zero_or_pos s.sp.toNat with h0 | h0
    · exact .inr (.inl ⟨_, .ret (BitVec.eq_of_toNat_eq h0)⟩)
    · rcases Nat.lt_or_ge 30 s.sp.toNat with h | h
      · exact .inr (.inr ⟨h, popAndJump_stops s h⟩)
      · exact .inl ⟨_, popAndJump_pops s h0 (by omega), rfl, rfl⟩
  | call nnn =>
    rcases Nat.lt_trichotomy s.sp.toNat 30 with h | h | h
    · exact .inl ⟨_, pushAndJump_pushes s _ _ h, rfl, rfl⟩
    · exact .inr (.inl ⟨_, .call (BitVec.eq_of_toNat_eq h)⟩)
    · exact .inr (.inr ⟨h, pushAndJump_stops s _ _ h⟩)
  | drwVxVyN x y n =>
    by_cases h : n = 0 ∨ s.regI.toNat + n.toNat - 1 ≤ 0xFFFF
    · exact .inl ⟨_, exec_drw_fits x y n s h, rfl, rfl⟩
    · exact .inr (.inl ⟨_, .draw (by bv_omega) (by omega)⟩)
  | ldBVx x =>
    rcases Nat.lt_or_ge 0xFFFF (s.regI.toNat + 2) with h | h
    · exact .inr (.inl ⟨_, .storeDigits h⟩)
    · exact .inl ⟨_, execLdBVx_fits x s h, rfl, rfl⟩
  | ldMemVx x =>
    rcases Nat.lt_or_ge 0xFFFF (s.regI.toNat + x.val) with h | h
    · exact .inr (.inl ⟨_, .storeRegisters h⟩)
    · exact .inl ⟨_, execLdMemVx_fits x s h, rfl, rfl⟩
  | ldVxMem x =>
    rcases Nat.lt_or_ge 0xFFFF (s.regI.toNat + x.val) with h | h
    · exact .inr (.inl ⟨_, .loadRegisters h⟩)
    · exact .inl ⟨_, execLdVxMem_fits x s h, rfl, rfl⟩
  | ldVxK x =>
    cases h : lowestKeyDown s with
    | none => exact .inl ⟨_, waitForKey_block_of_none x s h, rfl, rfl⟩
    | some k => exact .inl ⟨_, waitForKey_block_of_some x s h, rfl, rfl⟩
  | _ => exact .inl ⟨_, rfl, rfl, rfl⟩

/-! ### The faults of a Step (R200 to R204) -/

/-- The faults of R200, each with its condition: the fetch at the last byte, the word that matches no row, and the faults of the
fetched instruction. -/
inductive StepFault (s : State) : Err → Prop where
  | fetch (hpc : s.pc = 0xFFFF) : StepFault s .outOfBounds
  | illegal {r : Reject} (hpc : s.pc ≠ 0xFFFF) (hd : decodeWord s.fetchWord = .rejected r) : StepFault s .illegalInstruction
  | exec {i : Instr} {e : Err} (hpc : s.pc ≠ 0xFFFF) (hd : decodeWord s.fetchWord = .instr i) (hf : ExecFault s i e) :
      StepFault s e

theorem step_of_latched (he : s.err ≠ .none) : step s = .next s := by
  obtain ⟨_, hstep⟩ | ⟨hne, _⟩ | ⟨hne, _⟩ | ⟨hne, _⟩ := step_cases s
  · exact hstep
  all_goals exact absurd hne he

theorem step_of_rejected {r : Reject} (he : s.err = .none) (hpc : s.pc ≠ 0xFFFF) (hd : decodeWord s.fetchWord = .rejected r) :
    step s = raiseIllegal s.fetchWord s := by
  obtain ⟨hne, _⟩ | ⟨_, htop, _⟩ | ⟨_, _, _, _, hstep⟩ | ⟨_, _, i, hi, _⟩ := step_cases s
  · exact absurd he hne
  · exact absurd htop hpc
  · exact hstep
  · rw [hd] at hi
    cases hi

/-- A Step with a listed condition latches its fault and does nothing else (R205). -/
theorem step_of_stepFault (he : s.err = .none) (h : StepFault s e) :
    step s = .next (s.latch e (s.faultInfo s.fetchWord e)) := by
  cases h with
  | fetch hpc => exact step_at_top s he hpc
  | illegal hpc hd => exact step_of_rejected he hpc hd
  | exec hpc hd hf =>
    rw [step_of_decodeWord s he hpc hd, exec_of_execFault hf, (decodeWord_eq_instr_iff.1 hd).1]

/-- The list is closed: a Step executes an instruction and keeps the latch, or has a listed condition, or makes the stop at SP = 31. -/
theorem step_latch_cases (he : s.err = .none) :
    (∃ i t, exec i s = .next t ∧ step s = .next t ∧ KeepsLatch s t) ∨ (∃ e, StepFault s e) ∨
      (30 < s.sp.toNat ∧ step s = .fault .stackIndex) := by
  by_cases hpc : s.pc = 0xFFFF
  · exact .inr (.inl ⟨_, .fetch hpc⟩)
  · cases hd : decodeWord s.fetchWord with
    | rejected r => exact .inr (.inl ⟨_, .illegal hpc hd⟩)
    | instr i =>
      have hstep := step_of_decodeWord s he hpc hd
      obtain ⟨t, ht, hkeeps⟩ | ⟨e, hf⟩ | ⟨hsp, hstop⟩ := exec_latch_cases s i
      · exact .inl ⟨i, t, ht, hstep.trans ht, hkeeps⟩
      · exact .inr (.inl ⟨e, .exec hpc hd hf⟩)
      · exact .inr (.inr ⟨hsp, hstep.trans hstop⟩)

/-- A Step that answers with a fault latched had a listed condition, and latched that fault only. -/
theorem stepFault_of_step (he : s.err = .none) (h : step s = .next t) (hne : t.err ≠ .none) :
    StepFault s t.err ∧ t = s.latch t.err (s.faultInfo s.fetchWord t.err) := by
  obtain ⟨_, u, _, hu, hkeeps, _⟩ | ⟨e, hf⟩ | ⟨_, hstop⟩ := step_latch_cases he
  · cases hu.symm.trans h
    exact absurd (hkeeps.trans he) hne
  · cases (step_of_stepFault he hf).symm.trans h
    exact ⟨hf, rfl⟩
  · cases hstop.symm.trans h

/-- A Step raises exactly the faults whose condition holds. -/
theorem step_err_iff (he : s.err = .none) (h : step s = .next t) (hne : e ≠ .none) : t.err = e ↔ StepFault s e := by
  constructor
  · rintro rfl
    exact (stepFault_of_step he h hne).1
  · intro hf
    cases (step_of_stepFault he hf).symm.trans h
    rfl

/-! ### The list, fault by fault (R201 to R204) -/

theorem stepFault_outOfBounds_iff : StepFault s .outOfBounds ↔ s.pc = 0xFFFF ∨
    (∃ x y n, decodeWord s.fetchWord = .instr (.drwVxVyN x y n) ∧ n.toNat ≥ 1 ∧ s.regI.toNat + n.toNat - 1 > 0xFFFF) ∨
    (∃ x, decodeWord s.fetchWord = .instr (.ldBVx x) ∧ s.regI.toNat + 2 > 0xFFFF) ∨
    (∃ x, decodeWord s.fetchWord = .instr (.ldMemVx x) ∧ s.regI.toNat + x.val > 0xFFFF) ∨
    (∃ x, decodeWord s.fetchWord = .instr (.ldVxMem x) ∧ s.regI.toNat + x.val > 0xFFFF) := by
  constructor
  · rintro (hpc | _ | ⟨_, hd, hf⟩)
    · exact .inl hpc
    · cases hf with
      | draw hn h => exact .inr (.inl ⟨_, _, _, hd, hn, h⟩)
      | storeDigits h => exact .inr (.inr (.inl ⟨_, hd, h⟩))
      | storeRegisters h => exact .inr (.inr (.inr (.inl ⟨_, hd, h⟩)))
      | loadRegisters h => exact .inr (.inr (.inr (.inr ⟨_, hd, h⟩)))
  · intro h
    by_cases hpc : s.pc = 0xFFFF
    · exact .fetch hpc
    · obtain hpc' | ⟨x, y, n, hd, hn, h⟩ | ⟨x, hd, h⟩ | ⟨x, hd, h⟩ | ⟨x, hd, h⟩ := h
      exacts [absurd hpc' hpc, .exec hpc hd (.draw hn h), .exec hpc hd (.storeDigits h), .exec hpc hd (.storeRegisters h),
        .exec hpc hd (.loadRegisters h)]

theorem stepFault_stackOverflow_iff : StepFault s .stackOverflow ↔
    s.pc ≠ 0xFFFF ∧ (∃ nnn, decodeWord s.fetchWord = .instr (.call nnn)) ∧ s.sp = 30 := by
  constructor
  · rintro (_ | _ | ⟨hpc, hd, ⟨⟩⟩)
    next hsp => exact ⟨hpc, ⟨_, hd⟩, hsp⟩
  · rintro ⟨hpc, ⟨nnn, hd⟩, hsp⟩
    exact .exec hpc hd (.call hsp)

theorem stepFault_stackUnderflow_iff : StepFault s .stackUnderflow ↔
    s.pc ≠ 0xFFFF ∧ decodeWord s.fetchWord = .instr .ret ∧ s.sp = 0 := by
  constructor
  · rintro (_ | _ | ⟨hpc, hd, ⟨⟩⟩)
    next hsp => exact ⟨hpc, hd, hsp⟩
  · rintro ⟨hpc, hd, hsp⟩
    exact .exec hpc hd (.ret hsp)

theorem stepFault_illegalInstruction_iff : StepFault s .illegalInstruction ↔
    s.pc ≠ 0xFFFF ∧ ((∃ nnn, decodeWord s.fetchWord = .instr (.sys nnn)) ∨ ∃ r, decodeWord s.fetchWord = .rejected r) := by
  constructor
  · rintro (_ | ⟨hpc, hd⟩ | ⟨hpc, hd, ⟨⟩⟩)
    · exact ⟨hpc, .inr ⟨_, hd⟩⟩
    · exact ⟨hpc, .inl ⟨_, hd⟩⟩
  · rintro ⟨hpc, ⟨nnn, hd⟩ | ⟨r, hd⟩⟩
    · exact .exec hpc hd .sys
    · exact .illegal hpc hd

/-- The faulting words are the SYS words and the illegal words. -/
theorem isFaultingWord_iff (op : Word) :
    isFaultingWord op = true ↔ (∃ nnn, decodeWord op = .instr (.sys nnn)) ∨ ∃ r, decodeWord op = .rejected r := by
  unfold isFaultingWord
  cases decodeWord op with
  | rejected r => simp
  | instr i => cases i <;> simp

/-! ### The legal states -/

theorem State.latchConsistent_iff_of_err_none (he : s.err = .none) : s.latchConsistent = true ↔ s.errInfo = .none := by
  unfold State.latchConsistent
  cases hi : s.errInfo <;> simp [he]

/-- Each fault leaves a latch that tells one story with PC, SP and the word. -/
theorem StepFault.latchConsistent (h : StepFault s e) :
    (s.latch e (s.faultInfo s.fetchWord e)).latchConsistent = true := by
  cases e with
  | none => cases h with | exec _ _ hf => cases hf
  | outOfBounds => exact beq_self_eq_true s.pc
  | stackOverflow =>
    obtain ⟨_, _, hsp⟩ := stepFault_stackOverflow_iff.1 h
    simp [State.latchConsistent, State.faultInfo, hsp]
  | stackUnderflow =>
    obtain ⟨_, _, hsp⟩ := stepFault_stackUnderflow_iff.1 h
    simp [State.latchConsistent, State.faultInfo, hsp]
  | illegalInstruction =>
    have hw : isFaultingWord s.fetchWord = true := (isFaultingWord_iff _).2 (stepFault_illegalInstruction_iff.1 h).2
    simp [State.latchConsistent, State.faultInfo, hw]

/-- An instruction that answers a state has latched a fault and nothing else, or has no listed condition. -/
theorem latch_or_forall_not_execFault (h : exec i s = .next t) :
    (∃ e info, t = s.latch e info) ∨ ∀ e, ¬ ExecFault s i e := by
  by_cases hf : ∃ e, ExecFault s i e
  · obtain ⟨e, hf⟩ := hf
    cases (exec_of_execFault hf).symm.trans h
    exact .inl ⟨_, _, rfl⟩
  · exact .inr (not_exists.1 hf)

/-- Every instruction keeps the canonical form of memory: the two that store bytes have checked their whole range first. -/
theorem exec_mem_wf (hm : Memory.wf s.mem = true) (h : exec i s = .next t) : Memory.wf t.mem = true := by
  obtain ⟨e, info, rfl⟩ | hno := latch_or_forall_not_execFault h
  · exact hm
  · by_cases hsame : t.mem = s.mem
    · rwa [hsame]
    · obtain ⟨_, _, _, _, _, _, _, hwriter, _⟩ := specialStateWriters i s t h
      obtain ⟨x, rfl⟩ | ⟨x, rfl⟩ := hwriter hsame
      · have hfits : s.regI.toNat + 2 ≤ 0xFFFF := Nat.not_lt.1 fun hout => hno _ (.storeDigits hout)
        cases (execLdBVx_fits x s hfits).symm.trans h
        exact Memory.wf_writeBytes (by rw [bcdDigits_length]; omega) hm
      · have hfits : s.regI.toNat + x.val ≤ 0xFFFF := Nat.not_lt.1 fun hout => hno _ (.storeRegisters hout)
        cases (exec_ldMemVx_fits s x hfits).symm.trans h
        exact Memory.wf_writeBytes (by rw [registersUpTo_length]; omega) hm

/-- Every instruction keeps SP within 0..30 (R17): a CALL that pushes found SP below 30, and a RET that pops lowers SP. -/
theorem exec_sp_le (hsp : s.sp.toNat ≤ 30) (h : exec i s = .next t) : t.sp.toNat ≤ 30 := by
  obtain ⟨e, info, rfl⟩ | hno := latch_or_forall_not_execFault h
  · exact hsp
  · by_cases hsame : t.sp = s.sp
    · rwa [hsame]
    · obtain ⟨_, _, hwriter, _⟩ := specialStateWriters i s t h
      obtain rfl | ⟨nnn, rfl⟩ := hwriter hsame
      · have h0 : s.sp.toNat ≠ 0 := fun h0 => hno _ (.ret (BitVec.eq_of_toNat_eq h0))
        obtain ⟨u, hu, husp, _⟩ := (retPopsReturnAddress s).2 ⟨s.sp.toNat - 1, by omega⟩ (Nat.succ_pred h0).symm
        cases hu.symm.trans h
        omega
      · have h30 : s.sp.toNat ≠ 30 := fun h30 => hno _ (.call (BitVec.eq_of_toNat_eq h30))
        obtain ⟨u, hu, _, husp, _⟩ := (callPushesReturnAddress nnn s).2 ⟨s.sp.toNat, by omega⟩ rfl
        cases hu.symm.trans h
        omega

/-- From every legal state a Step answers a legal state: an instruction that keeps the latch, a fault that writes only the latch, or a
latched state; the stop at SP = 31 is never reached. -/
theorem step_keeps_inv (hs : s.Inv) : ∃ t, step s = .next t ∧ t.Inv := by
  obtain ⟨hm, hsp, hl⟩ := hs
  by_cases he : s.err = .none
  · obtain ⟨i, t, hexec, hstep, herr, hinfo⟩ | ⟨e, hf⟩ | ⟨hgt, _⟩ := step_latch_cases he
    · have hnone : s.errInfo = .none := (State.latchConsistent_iff_of_err_none he).1 hl
      have hl' := (State.latchConsistent_iff_of_err_none (herr.trans he)).2 (hinfo.trans hnone)
      exact ⟨t, hstep, exec_mem_wf hm hexec, exec_sp_le hsp hexec, hl'⟩
    · exact ⟨_, step_of_stepFault he hf, hm, hsp, hf.latchConsistent⟩
    · exact absurd hsp (Nat.not_le.2 hgt)
  · exact ⟨s, step_of_latched he, hm, hsp, hl⟩

/-- A change outside PC, SP and the fault latch keeps a state legal if it keeps the canonical form of memory. -/
theorem State.Inv.of_frame {allowed : Piece → Prop} (hs : s.Inv) (hm : Memory.wf t.mem = true) (hframe : OnlyChanges allowed s t)
    (hout : ∀ p ∈ [Piece.pc, .sp, .err, .errInfo], ¬ allowed p) : t.Inv := by
  have hpc : t.pc = s.pc := hframe .pc (hout _ (by simp))
  have hsp : t.sp = s.sp := hframe .sp (hout _ (by simp))
  have herr : t.err = s.err := hframe .err (hout _ (by simp))
  have hinfo : t.errInfo = s.errInfo := hframe .errInfo (hout _ (by simp))
  obtain ⟨_, hle, hl⟩ := hs
  refine ⟨hm, hsp ▸ hle, ?_⟩
  rwa [State.latchConsistent, herr, hinfo, hpc, hsp]

end

/-! ### The operations of the host (R214 to R222) -/

section
variable (s : State)

/-- Tick's frame: the two timers (R214). -/
theorem State.tick_frame : OnlyChanges (fun p => p = .dt ∨ p = .st) s s.tick :=
  ((setDt_frame s _).mono fun _ => .inl).trans ((setSt_frame _ _).mono fun _ => .inr)

theorem State.resetOperation_inv : s.resetOperation.Inv := ⟨rfl, Nat.zero_le 30, rfl⟩

/-- Every operation of the host answers a legal state from a legal state. -/
theorem operate_keeps_inv {s : State} (hs : s.Inv) (o : HostOp) : ∃ t, operate o s = .next t ∧ t.Inv := by
  have hm : Memory.wf s.mem = true := hs.1
  cases o with
  | step => exact step_keeps_inv hs
  | tick => exact ⟨_, rfl, hs.of_frame hm s.tick_frame (by simp)⟩
  | keyWrite k down => exact ⟨_, rfl, hs.of_frame hm (setKeyAt_frame s k down) (by simp)⟩
  | fbRead => exact ⟨_, rfl, hs⟩
  | load image => exact ⟨_, rfl, hs.of_frame (s.load_mem_wf image hm) (s.load_frame image) (by simp)⟩
  | reset => exact ⟨_, rfl, s.resetOperation_inv⟩
  | supplyRandom b => exact ⟨_, rfl, hs.of_frame hm (supplyRandom_frame s b) (by simp)⟩

theorem State.load_latch (image : List Byte) (e : Err) (info : ErrInfo) :
    (s.latch e info).load image = (s.load image).latch e info := by
  unfold State.load
  split <;> rfl

/-- Every operation but Step and Reset leaves the latch as it stands and does not look at it (R206). -/
theorem operate_ignores_latch (e : Err) (info : ErrInfo) (o : HostOp) (hstep : o ≠ .step) (hreset : o ≠ .reset) :
    ∃ t, operate o s = .next t ∧ KeepsLatch s t ∧ operate o (s.latch e info) = .next (t.latch e info) := by
  cases o with
  | step => exact absurd rfl hstep
  | reset => exact absurd rfl hreset
  | load image =>
    have hframe := s.load_frame image
    exact ⟨_, rfl, ⟨hframe .err (by simp), hframe .errInfo (by simp)⟩, congrArg Host.Outcome.next (s.load_latch image e info)⟩
  | tick | keyWrite | fbRead | supplyRandom => exact ⟨_, rfl, ⟨rfl, rfl⟩, rfl⟩

theorem State.fbRead_length : s.fbRead.length = 2048 := by simp [State.fbRead]

theorem State.fbRead_getElem? (k : Fin 2048) : s.fbRead[k.val]? = some (s.pixel k) := by simp [State.fbRead]

/-! ### The parked states (R227) -/

/-- In a parked state the word at PC is the JP to the low 12 bits of PC, which are the whole of PC. -/
theorem State.Parked.decodeWord_fetchWord {s : State} (h : s.Parked) :
    ∃ a : Addr12, zext12 a = s.pc ∧ decodeWord s.fetchWord = .instr (.jp a) := by
  obtain ⟨hle, hword⟩ := h
  obtain ⟨a, ha⟩ : ∃ a : Addr12, a.toNat = s.pc.toNat := ⟨BitVec.ofNat 12 s.pc.toNat, Nat.mod_eq_of_lt (by omega)⟩
  refine ⟨a, BitVec.eq_of_toNat_eq ((zext12_toNat a).trans ha), decodeWord_eq_instr_iff.2 ⟨BitVec.eq_of_toNat_eq ?_, rfl⟩⟩
  calc (wordNNN 0x1 a).toNat = 2 ^ 12 * 1 + s.pc.toNat := by rw [wordNNN_toNat, ha]; rfl
    _ = 2 ^ 12 * 1 ||| s.pc.toNat := Nat.two_pow_add_eq_or_of_lt (i := 12) (by omega) 1
    _ = s.fetchWord.toNat := by rw [hword, BitVec.toNat_or]; rfl

end
end Sys2Proof.Machine

open Sys2Proof Sys2Proof.Machine

/-- Settles O14, by induction on the list of operations: each of them answers a legal state. -/
theorem hostOperationsKeepInvariant : Obligations.HostOperationsKeepInvariant := by
  intro os
  induction os with
  | nil => exact fun s hs => ⟨s, rfl, hs⟩
  | cons o os ih =>
    intro s hs
    obtain ⟨t, ht, hinv⟩ := operate_keeps_inv hs o
    rw [operateAll, ht]
    exact ih t hinv

/-- Settles O15: a Step that answers with a fault latched had a listed condition, and latched that fault only. -/
theorem faultingStepIsPrecise : Obligations.FaultingStepIsPrecise := by
  intro s t he h hne
  obtain ⟨_, ht⟩ := stepFault_of_step he h hne
  rw [ht]
  exact ⟨rfl, rfl⟩

/-- Settles O16: a Step raises exactly the faults whose condition holds, and the conditions of each fault are those of its line. -/
theorem faultsAreExactlyListed : Obligations.FaultsAreExactlyListed := by
  refine ⟨fun s t he h => ⟨?_, ?_, ?_, ?_, fun hill => ?_, fun hne hill => ?_⟩, rfl, rfl, rfl, rfl, rfl⟩
  · exact (step_err_iff he h (by decide)).trans stepFault_outOfBounds_iff
  · exact (step_err_iff he h (by decide)).trans stepFault_stackOverflow_iff
  · exact (step_err_iff he h (by decide)).trans stepFault_stackUnderflow_iff
  · exact (step_err_iff he h (by decide)).trans stepFault_illegalInstruction_iff
  · exact (faultingStepIsPrecise s t he h (hill ▸ nofun)).2.trans (if_pos hill)
  · exact (faultingStepIsPrecise s t he h hne).2.trans (if_neg hill)

/-- Settles O21: the JP of a parked state assigns PC its own value. -/
theorem parkedStepChangesNothing : Obligations.ParkedStepChangesNothing := by
  intro s he hparked
  obtain ⟨a, ha, hd⟩ := hparked.decodeWord_fetchWord
  have hpc : s.pc ≠ 0xFFFF := fun h => absurd (h ▸ hparked.1) (by decide)
  calc step s = jumpTo (zext12 a) s := step_of_decodeWord s he hpc hd
    _ = .next s := by rw [ha, jumpTo_eq]; rfl

/-- Settles O11: a faulting word is a listed condition of IllegalInstruction. -/
theorem faultingWordRaisesIllegal : Obligations.FaultingWordRaisesIllegal := fun s he hpc hw =>
  step_of_stepFault he (stepFault_illegalInstruction_iff.2 ⟨hpc, (isFaultingWord_iff s.fetchWord).1 hw⟩)

/-- Settles O12: a latched Step is the first case of a Step, and no operation but Step and Reset looks at the latch. -/
theorem latchIsSticky : Obligations.LatchIsSticky := by
  intro s he
  refine ⟨step_of_latched he, fun o hstep hreset => ?_, _, rfl, rfl⟩
  obtain ⟨t, ht, ⟨herr, hinfo⟩, hclear⟩ := operate_ignores_latch s .none .none o hstep hreset
  exact ⟨t, ht, herr, hinfo, hclear⟩

/-- Settles O54: each timer counts down by itself, and Tick writes nothing but the timers. -/
theorem tickCountsDown : Obligations.TickCountsDown := fun s =>
  ⟨_, rfl, countDown_toNat s.dt, countDown_toNat s.st, s.tick_frame⟩

/-- Settles O55: KeyWrite is the write of one key flag, and FbRead's reply lists the pixels by number. -/
theorem keyWriteAndFbRead : Obligations.KeyWriteAndFbRead :=
  ⟨fun k b s => ⟨_, rfl, s.setKeyAt_keyAt_self k b, setKeyAt_frame s k b⟩,
    fun s => ⟨rfl, s.fbRead, rfl, s.fbRead_length, s.fbRead_getElem?⟩⟩
end

section
/-!
Proofs of the statements of spec/70_reset_and_hazards.md: each part of the power-on state read through the accessors of the state, and
the frame of the Reset operation over it.
-/

namespace Sys2Proof

theorem Config.font_length : Config.font.length = 80 := rfl

end Sys2Proof

namespace Sys2Proof.Machine

/-! ### The power-on state read item by item (R230) -/

theorem State.reset_getV (r : RegIx) : State.reset.getV r = 0 := Vector.getElem_replicate r.isLt

theorem State.reset_stack (k : Fin 30) : State.reset.stack[k.val] = 0 := Vector.getElem_replicate k.isLt

theorem State.reset_keyAt (k : RegIx) : State.reset.keyAt k = false := Vector.getElem_replicate k.isLt

/-- The framebuffer at power-on is the one CLS leaves. -/
theorem State.reset_pixel (k : Fin 2048) : State.reset.pixel k = false := State.reset.setFb_clear_pixel k

/-- No byte is listed at power-on, so each reads as its power-on value. -/
theorem State.reset_readMem (a : Nat) : State.reset.readMem a = Memory.blank a := rfl

/-- The power-on memory is 0x00 above the font (R46). -/
theorem Memory.blank_eq_zero {a : Nat} (h : 80 ≤ a) : Memory.blank a = 0 :=
  List.getD_eq_default Config.font 0 (Config.font_length ▸ h)

/-! ### The Reset operation (R231) -/

/-- The Reset operation's frame over the power-on state: the stack entries and the random source, which it leaves as it finds them. -/
theorem State.resetOperation_frame (s : State) :
    OnlyChanges (fun p => (∃ k, p = .stack k) ∨ p = .rndSupply ∨ p = .rndDraws) State.reset s.resetOperation := by
  intro p hp
  cases p with
  | stack k => exact absurd (.inl ⟨k, rfl⟩) hp
  | rndSupply => exact absurd (.inr (.inl rfl)) hp
  | rndDraws => exact absurd (.inr (.inr rfl)) hp
  | _ => rfl

end Sys2Proof.Machine

open Sys2Proof Sys2Proof.Machine

/-- Settles O6: a replicated value is found at every index, the font is what memory reads below 80, and above it there is no font. -/
theorem resetStateValues : Obligations.ResetStateValues :=
  ⟨State.reset_getV, rfl, rfl, rfl, State.reset_stack, rfl, rfl, State.reset_pixel, State.reset_keyAt,
    fun a => State.reset_readMem a, fun a h => (State.reset_readMem a).trans (Memory.blank_eq_zero h), rfl, rfl⟩

/-- Settles O57: the Reset operation's frame over the power-on state, and the random source it leaves as it finds it. -/
theorem resetRestoresPowerOn : Obligations.ResetRestoresPowerOn := fun s =>
  ⟨s.resetOperation, rfl, s.resetOperation_frame, s.resetOperation_rndSupply, s.resetOperation_rndDraws⟩
end

section
/-!
Proofs of the statements about the legal states (spec/10_state.md section 4), the model's stop outside them (log 5), and the model's
convention for placing an instruction where the next Step fetches it (log 9).
-/

namespace Sys2Proof.Machine

/-! ### The placed word (R43; log 9) -/

theorem State.withFetchWord_toNat (s : State) (w : Word) : s.withFetchWord 16 w.toNat = s.placeWord w := by
  have hw : BitVec.ofNat 16 (w.toNat % 2 ^ 16) = w := by rw [Nat.mod_eq_of_lt w.isLt, BitVec.ofNat_toNat, BitVec.setWidth_eq]
  rw [State.withFetchWord, placeTableWord, hw]

theorem bytesOfWord_length (op : Word) : (bytesOfWord op).length = 2 := rfl

/-- Placing a word changes the two bytes the next fetch reads. -/
theorem State.placeWord_frame (s : State) (op : Word) :
    OnlyChanges (fun p => p = .mem s.pc.toNat ∨ p = .mem (s.pc.toNat + 1)) s (s.placeWord op) := by
  refine (writeBytes_frame s s.pc.toNat (bytesOfWord op)).mono ?_
  rintro p ⟨k, hk, hp⟩
  rw [bytesOfWord_length] at hk
  obtain rfl | rfl : k = 0 ∨ k = 1 := by omega
  exacts [.inl hp, .inr hp]

end Sys2Proof.Machine

open Sys2Proof Sys2Proof.Machine

/-- Settles O13: an instruction that keeps the latch keeps the other two parts of the invariant, a fault writes only the latch and
leaves it consistent, and a latched Step changes nothing. -/
theorem stepKeepsInvariant : Obligations.StepKeepsInvariant := fun _ hs => step_keeps_inv hs

/-- Settles O19: the fetch reads the two bytes placed, so the Step is the one of the decoded instruction. -/
theorem placedWordIsRun : Obligations.PlacedWordIsRun := by
  intro s w i hs he hpc hd
  obtain ⟨hm, _, _⟩ := hs
  have hfetch : (s.placeWord w).fetchWord = w := fetchWord_placeWord s w hm hpc
  rw [s.withFetchWord_toNat w]
  exact ⟨step_of_decodeWord (s.placeWord w) he hpc (hfetch.symm ▸ hd), s.placeWord_frame w⟩

/-- Settles O7: no byte is listed, SP is 0, and neither a fault nor its information is latched. -/
theorem resetMeetsInvariant : Obligations.ResetMeetsInvariant := ⟨rfl, Nat.zero_le 30, rfl⟩

/-- Settles O58: the push and the pop both stop at an SP that names no stack entry. -/
theorem stackIndexStops : Obligations.StackIndexStops := fun nnn s h =>
  ⟨pushAndJump_stops s s.npc (zext12 nnn) h, popAndJump_stops s h⟩
end
